-- ==== Sys2Proof/Word.lean ====
section
/-! DEFINITION. The words of the machine and access to the like things a station has a fixed number of. -/

namespace Sys2Proof

/-- One byte of exchange memory (00 section 6.2). -/
abbrev Byte := BitVec 8

/-- One word of the host window: 32 bits (01 section 1.1). -/
abbrev Word := BitVec 32

/-- Rack time: a millisecond count of 32 bits that wraps (00 section 6.4, R5). -/
abbrev Time := BitVec 32

/-- A stamp of the 0.1 µs timebase, modulo 2^32 (07 R138, log 9). -/
abbrev Tick := BitVec 32

/-- A station number, 0 to 3. -/
abbrev StationId := Fin 4

/-- A cell index within a station's ring, 0 to 31. -/
abbrev CellId := Fin 32

/-- Replaces one of a fixed number of like things. -/
def put {α : Type} {n : Nat} (v : Vector α n) (i : Fin n) (a : α) : Vector α n :=
  v.set i.val a i.isLt

/-- One function over each of a fixed number of like things (in a form the kernel evaluates). -/
def mapEach {α β : Type} {n : Nat} (f : α → β) (v : Vector α n) : Vector β n :=
  ⟨⟨v.toList.map f⟩, by simp⟩

/-- The stations in the order one event reaches them (log 5). -/
def stationIds : List StationId := [0, 1, 2, 3]

end Sys2Proof
end

