-- ==== Sys2Proof/Syntax.lean ====
section
/-! DEFINITION. The commands of the part: one constructor for each row of spec/opcode_table.json. -/

namespace Sys2Proof

/-- The eight registers of the window (01 section 1.3). -/
inductive Register where
  | ident | rackctl | sweep | stnctl | attn | attnmask | racktime | guardlog
deriving DecidableEq, Repr

/-- The six debounced fixture inputs (03 section 3.1, R50). -/
inductive FixtureInput where
  | nest | closed | opened | startL | startR | guard
deriving DecidableEq, Repr

/-- A stimulus channel that can ramp: a pulse generator or a level output (05 section 5.1). -/
inductive RampChannel where
  | pg (index : Fin 4)
  | lv (index : Fin 4)
deriving DecidableEq, Repr

/-- The four panel keys (10 section 10.1). -/
inductive Key where
  | yes | no | again | stop
deriving DecidableEq, Repr

/-- The samples of one received character (R108): for the start bit, the eight data bits, the mark
bit and the first stop bit, the three readings 7, 8 and 9; a set bit is a recessive reading. -/
structure CharSamples where
  start : BitVec 3
  data  : Vector (BitVec 3) 8
  mark  : BitVec 3
  stop  : BitVec 3
deriving DecidableEq, Repr

/-- The raw levels an enable reads (R141, R176): the four keys (YES, NO, REPEAT, STOP from bit 0, set
when held) and the eight observed inputs of each station (set when high). -/
structure RawLevels where
  keys   : BitVec 4
  inputs : Vector (BitVec 8) 4
deriving DecidableEq, Repr

/-- What the raw levels of `n` pins did in one ms, for their debouncers (R50, R174): the pins whose raw level differs
from the debounced level at the end of the ms, and those of them whose difference began, or began anew, within it. -/
structure RawMs (n : Nat) where
  differs : BitVec n
  anew    : BitVec n
deriving DecidableEq, Repr

/-- A ms at whose end every raw level is the debounced one. -/
def RawMs.quiet {n : Nat} : RawMs n := ⟨0, 0⟩

/-- What the raw pins of a station's fixture did in one ms (R50, R51): its inputs (in the order of `FixtureInput` from
bit 0), and the combination the six code bits hold at its end if they changed within it. -/
structure FixtureRaw where
  inputs : RawMs 6
  code   : Option (BitVec 6)
deriving DecidableEq, Repr

/-- A ms at whose end every raw level is the debounced one and in which no code bit changed. -/
def FixtureRaw.quiet : FixtureRaw := ⟨.quiet, none⟩

/-- The commands of the part (spec/opcode_table.json; what each holds: 95_what_each_step_holds.md).
The operands are what arrives with the event (log 30); `keys` of a tick is what the raw levels of the keys (numbered
as in `RawLevels`) did in the ms that ends, and `fixtures` what each station's fixture pins did. -/
inductive Instr where
  | powerOnReset (contents : List Host.Cell)
  | resetPinAsserted
  | softReset (value : Word)
  | rackEnable (value : Word) (raw : RawLevels)
  | rackDisable (value : Word)
  | sweepmodeWrite (value : Word)
  | sweepWrite (value : Word)
  | periodicSweep
  | stationHalt (value : Word)
  | stationClear (value : Word)
  | attnClear (value : Word)
  | attnmaskWrite (value : Word)
  | guardlogRead
  | registerWriteIgnored (register : Register) (value : Word)
  | hostMemoryWrite (index : BitVec 14) (value : Word)
  | hostCellStateWrite (station : StationId) (cell : CellId) (value : Word)
  | rackTimeTick (keys : RawMs 4 := .quiet) (fixtures : Vector FixtureRaw 4 := Vector.replicate 4 .quiet)
  | waitExpiry (station : StationId)
  | fixtureDebounceChange (station : StationId) (input : FixtureInput)
  | fixtureCodeChange (station : StationId) (code : BitVec 6)
  | twoHandTimeout (station : StationId)
  | travelTimeout (station : StationId)
  | supplyRampStep (station : StationId)
  | supplyMonitorSample (station : StationId) (milliamps millivolts : BitVec 16) (inLimit : Bool)
  | supplyTrip (station : StationId)
  | stimulusRampStep (station : StationId) (channel : RampChannel)
  | pgPeriodBoundary (station : StationId) (generator : Fin 4)
  | scheduleEntryDue (station : StationId) (entry : Fin 16)
  | wireFree (station : StationId)
  | lineSyncComplete (station : StationId)
  | bitError (station : StationId) (noisy : Bool)
  | frameEnd (station : StationId) (noisy : Bool)
  | responseCharacterReceived (station : StationId) (samples : CharSamples)
  | responseAllowanceExpiry (station : StationId)
  | responseWindowClose (station : StationId) (noisy : Bool := false)
  | lineStuck (station : StationId) (recessiveSince : Bool)
  | sampleEnd (microvolts : Int)
  | inputFilteredEdge (station : StationId) (input : Fin 8) (tick : Tick)
  | inputExcursionRejected (station : StationId) (input : Fin 8)
  | edgeWindowClose (station : StationId)
  | meterGateEnd (station : StationId) (meter : Fin 2)
  | meterDeadline (station : StationId) (meter : Fin 2)
  | lampIdentityRead (station : StationId) (identity : Byte)
  | lampRowUpdate (station : StationId) (readings : Vector Byte 8)
  | attemptStart (station : StationId)
  | settleTimeout (station : StationId)
  | listenTimeout (station : StationId)
  | keyPress (key : Key)
  | promptTimeout
  | panelRender
  | noticeBeep
  | buzzerEnd
  | resetEnd
  | keyRelease (key : Key)
  | responseWindowOpen (station : StationId) (noisy : Bool)
  | falseStart (station : StationId)
deriving DecidableEq, Repr

end Sys2Proof
end

