-- ==== Sys2Proof/Decode.lean ====
section
/-! DEFINITION. The decoder: which command a word spells by the table's bits. -/

namespace Sys2Proof

/-- The command a word of `nbits` bits spells. spec/opcode_table.json gives no row a bit: a command of this
block is a host access or an event, not a word, so that no word spells one (log 25). -/
def decodeTableWord (_nbits _w : Nat) : Option Instr := none

end Sys2Proof
end

