-- ==== Sys2Proof/Config.lean ====
section
/-! DEFINITION. What the part fixes for good (addresses, limits, the identity word) and the free values
the manual leaves open. -/

namespace Sys2Proof.Config

/-- IDENT: part code 0x2404, revision 0x0001 (01 section 1.3). -/
def ident : Word := 0x24040001

/-- Where exchange memory ends and the registers begin (01 section 1.1). -/
def memoryEnd : Nat := 0xFFE0

/-- Word index of the first register, 0xFFE0 / 4. -/
def firstRegister : Nat := 0x3FF8

/-- Window offset of the rack status block's reset record word (12.2, R200). -/
def resetRecord : Nat := 0x80
def refMeans : Nat := 0x84
def refSuspect : Nat := 0x88
def configError : Nat := 0x8C
def displayImage : Nat := 0x90
def showingRecord : Nat := 0xC0
def queueImage : Nat := 0xD0
def queueLength : Nat := 0xF0

/-- Window offset of text slot n (12.2). -/
def textSlot (n : Nat) : Nat := 0x100 + 48 * n

/-- Window offset of the fixture record of a code (12.2). -/
def fixtureRecord (code : Nat) : Nat := 0x6000 + 16 * code

/-- Window offset of a station's page (00 section 6.2). -/
def page (i : StationId) : Nat := 0x1000 + 0x1400 * i.val

/-- Window offset of a work cell (01 section 1.4). -/
def cell (i : StationId) (c : CellId) : Nat := page i + 0x100 + 64 * c.val

def calibration (i : StationId) (k : Nat) : Nat := page i + 0x900 + 16 * k
def stationConfig (i : StationId) : Nat := page i + 0x990
def scheduleEntry (i : StationId) (e : Fin 16) : Nat := page i + 0xA00 + 32 * e.val
def receptionEntry (i : StationId) (e : Fin 16) : Nat := page i + 0xC00 + 32 * e.val
def lampRecord (i : StationId) (k : Nat) : Nat := page i + 0xE00 + 8 * k
def inputRecord (i : StationId) (n : Fin 8) : Nat := page i + 0x1000 + 16 * n.val
def contactResult (i : StationId) (p : Nat) : Nat := page i + 0x1080 + 4 * p
def traceSlot (i : StationId) (n : Nat) : Nat := page i + 0x1100 + 4 * n

/-- The scale limit (R156). -/
def scaleLimit : Int := 999999999

/-- Longest travel timeout, taken at every enable (R54, R55). -/
def longestTravel : Nat := 5000

/-- Show guard of the panel (R174), render interval (R189), notice beep interval (R185), ms. -/
def showGuard : Nat := 250
def renderInterval : Nat := 200
def noticeInterval : Nat := 5000

/-- Beep lengths (R192), ms. -/
def shortBeep : Nat := 100
def longBeep : Nat := 1000

/-- Identity code of a lamp head (R146). -/
def headIdentity : Byte := 0x4C

/-- FREE VALUE (log 12): what a host read returns while a reset lasts ("a host read returns no defined
value", R199); the argument counts such reads. -/
opaque resetRead : Nat → Word

/-- FREE VALUE (log 13): the count C of a FREQ (true) or DUTY (false) measurement whose ticks are 0;
R153 gives no result there. -/
opaque zeroTickCount : Bool → Nat → Nat → Nat

end Sys2Proof.Config
end

