-- ==== Sys2Proof/Machine/State.lean ====
section
/-! DEFINITION. The state of the part: everything the spec names, as plain data, and its value right
after a reset. -/

namespace Sys2Proof.Machine

/-- Reasons the machine stops with a fault. -/
inductive Fault where
  /-- Raised by no meaning: the spec names no condition that stops the part (log 27). Safe. -/
  | noSuchWord
deriving DecidableEq, Repr

/-- Reasons a command has no meaning. -/
inductive Refusal where
  /-- Raised only by an arm of `exec` whose command has no meaning yet. Safe. -/
  | notModelled (mnemonic : String)
deriving DecidableEq, Repr

/-- Exchange memory: listed bytes by rising address, none of them 0; an unlisted byte reads 0 (log 1). -/
abbrev Memory := List Host.Cell

/-! ### Codes the spec names -/

/-- Verdicts (12.7). -/
inductive Verdict where
  | none | pass | fail | error
deriving DecidableEq, Repr

/-- Reasons (12.7). -/
inductive Reason where
  | ok | belowLimit | aboveLimit | outOfScale | noResponse | lineError | noSignal | operatorNo
  | operatorStop | timeout | contactFail | noPart | notClamped | noFixture | wrongFixture | interlock
  | overcurrent | jammed | noSupply | supplyOn | noHead | badKind | badParam | notInRun | runOpen
  | halted | disabled | interrupted | operatorRelease
deriving DecidableEq, Repr

/-- The reasons a fault report carries (R38). -/
inductive FaultReason where
  | overcurrent | interlock | jammed | noPart
deriving DecidableEq, Repr

/-- The twelve kinds of step (12.7). -/
inductive Kind where
  | begin | finish | wait | clamp | release | contact | power | set | send | measure | listen | prompt
deriving DecidableEq, Repr

/-- Station states (02 section 2.5). -/
inductive StationState where
  | off | idle | busy | waiting | stopped | faulted
deriving DecidableEq, Repr

/-- Run states (02 section 2.6). -/
inductive RunState where
  | none | opened | passed | failed | aborted
deriving DecidableEq, Repr

/-- Fixture states (03 section 3.2). -/
inductive FixtureState where
  | opened | arming | closing | clamped | opening | jammed
deriving DecidableEq, Repr

/-- Supply states (04 section 4.1). -/
inductive SupplyState where
  | off | ramping | on | tripped
deriving DecidableEq, Repr

/-- Line states (06 section 6.3). -/
inductive LineState where
  | dormant | quiet | syncing | running
deriving DecidableEq, Repr

/-- Meter states (07 section 7.6). -/
inductive MeterState where
  | idle | armed | counting | closing
deriving DecidableEq, Repr

/-- Frame result codes (R112). -/
inductive FrameResult where
  | ok | bitError | noResponse | short | framing | mark | check | stuck
deriving DecidableEq, Repr

/-- Classes of an attempt (R159). -/
inductive AttemptClass where
  | inWindow | below | above | outOfScale | noSignal
deriving DecidableEq, Repr

/-- What a reset in progress was caused by (R200). -/
inductive ResetCause where
  | powerOn | pin | soft
deriving DecidableEq, Repr

/-- What a station lamp shows (R193). -/
inductive Lamp where
  | off | redFlashing | amberFlashing | amber | red | green
deriving DecidableEq, Repr

/-- A stimulus channel a track source, a binding or a prompt field names (12.8, channel code). -/
inductive Channel where
  | pg (index : Fin 4)
  | lv (index : Fin 4)
  | mv (index : Fin 8)
deriving DecidableEq, Repr

/-! ### The judgement of a step -/

/-- A calibration record as copied by a step (R130). -/
structure Calibration where
  offset16 : Int
  hold     : Nat
  unit     : Nat
  gain     : Nat
  base     : Int
deriving DecidableEq, Repr

/-- A window specification (08 section 8.4). -/
inductive Window where
  | abs (low high : Int)
  | track (source : Channel) (ratio bias tolerance : Int)
deriving DecidableEq, Repr

/-- What a LAMP attempt reads (R149). -/
inductive LampItem where
  | intensity | state | blink
deriving DecidableEq, Repr

/-- The source of a MEASURE with its details (09 section 9.1). -/
inductive Source where
  | analog (channel : Fin 8) (samplesCode : Nat)
  | supplyI
  | supplyV
  | freq (meter : Fin 2) (input : Fin 8) (gate : Nat)
  | duty (meter : Fin 2) (input : Fin 8) (gate : Nat)
  | edges (input : Fin 8) (window : Nat)
  | level (input : Fin 8)
  | lamp (row column : Nat) (item : LampItem)
deriving DecidableEq, Repr

/-- The field of an answer a LISTEN names (R154). -/
structure Field where
  offset    : Nat
  wide      : Bool
  signed    : Bool
  highFirst : Bool
deriving DecidableEq, Repr

/-- The outcome of one evaluated attempt (08 section 8.1). -/
structure Attempt where
  value     : Int
  cls       : AttemptClass
  lower     : Int
  upper     : Int
  judged    : Int
  saturated : Bool
deriving DecidableEq, Repr

/-- The last miss of a step: the class of an attempt, or a frame result of a LISTEN (R164, R170). -/
inductive Miss where
  | attempt (cls : AttemptClass)
  | frame (result : FrameResult)
deriving DecidableEq, Repr

/-- What a step leaves in its cell (R27) beside what the take wrote. `unit` is the unit of the last
value for the kinds that yield one (R30). -/
structure Result where
  verdict  : Verdict
  reason   : Reason
  flags    : BitVec 16
  value    : Int
  aux      : Int
  attempts : Nat
  unit     : Nat
deriving DecidableEq, Repr

/-! ### Steps in flight -/

/-- What a CONTACT holds (03 section 3.7). -/
structure ContactWork where
  pins       : Nat
  threshold  : Nat
  cal        : Calibration
  pin        : Nat
  greatest   : Int
  greatestAt : Nat
  firstAbove : Option Nat
  saturated  : Bool
deriving DecidableEq, Repr

/-- What a SET waiting for its ramp holds (R97, R104). -/
structure SetWork where
  channel : RampChannel
  target  : Nat
  duty    : Nat
  steps   : Nat
  limited : Bool
deriving DecidableEq, Repr

/-- What gathers the raw datum of an attempt (09 section 9.2). -/
inductive Gathering where
  | none | conversion | meter | window
deriving DecidableEq, Repr

/-- The parameters of a MEASURE as admitted (09 section 9.1); gain, base and unit are those of the
calibration copy for ANALOG and the step's own otherwise. -/
structure MeasureParams where
  source   : Source
  cal      : Calibration
  window   : Window
  hits     : Nat
  settle   : Nat
  interval : Nat
deriving DecidableEq, Repr

/-- A MEASURE in flight with its attempt state (09 section 9.2). -/
structure MeasureWork where
  params     : MeasureParams
  attempts   : Nat
  hits       : Nat
  last       : Option Attempt
  lastMiss   : Option Miss
  refSuspect : Bool
  saturated  : Bool
  traceFull  : Bool
  gathering  : Gathering
  nextStart  : Time
  expired    : Bool
deriving DecidableEq, Repr

/-- The parameters of a LISTEN as admitted (09 section 9.5). -/
structure ListenParams where
  entry   : Fin 16
  field   : Field
  cal     : Calibration
  window  : Window
  hits    : Nat
  timeout : Nat
deriving DecidableEq, Repr

/-- A LISTEN in flight with its attempt state. -/
structure ListenWork where
  params    : ListenParams
  sequence  : BitVec 16
  attempts  : Nat
  hits      : Nat
  last      : Option Attempt
  lastMiss  : Option Miss
  noise     : Bool
deriving DecidableEq, Repr

/-- What a step in flight waits for, by kind (R25). A CLAMP holds its flags gathered so far: LIMITED of its
travel timeout (R55), and SERVICE_DUE of an entry to CLAMPED that finds no part (R67). -/
inductive Work where
  | none
  | wait (duration : Nat)
  | clamp (limited : Bool) (due : Bool := false)
  | release
  | endRelease (taken closing : Nat)
  | contact (work : ContactWork)
  | power (limited : Bool)
  | set (work : SetWork)
  | sendStart (enabled clamped : Nat)
  | sendStop (removed : Nat)
  | sendOnce (entry : Fin 16) (started : Bool)
  | measureHeld (params : MeasureParams)
  | measure (work : MeasureWork)
  | listen (work : ListenWork)
  | prompt
deriving DecidableEq, Repr

/-- The step copy (R22): `params` holds cell bytes 4 to 35, byte 4 lowest; `counted` says that the step
was counted as taken in the run still open. -/
structure Step where
  cell     : CellId
  kind     : Byte
  flags    : Byte
  tag      : Byte
  params   : BitVec 256
  takeTime : Time
  counted  : Bool
  work     : Work
deriving DecidableEq, Repr

/-! ### The station's blocks -/

/-- The run record (02 section 2.6). What an enable reads back from the header is kept byte for byte
(R48, log 31). -/
structure RunRecord where
  state       : RunState
  number      : BitVec 16
  taken       : BitVec 16
  passed      : BitVec 16
  failed      : BitVec 16
  errored     : BitVec 16
  unjudged    : BitVec 16
  abandoned   : BitVec 16
  firstCell   : Byte
  firstReason : Byte
  firstSeq    : BitVec 16
  fixtureCode : Byte
  serviceDue  : Byte
  startTime   : Time
  endTime     : Time
  traceCount  : Byte
  traceFull   : Byte
deriving DecidableEq, Repr

/-- The record of a header never written (R48). -/
def RunRecord.never : RunRecord :=
  { state := .none, number := 0, taken := 0, passed := 0, failed := 0, errored := 0, unjudged := 0,
    abandoned := 0, firstCell := 255, firstReason := 0, firstSeq := 0, fixtureCode := 0,
    serviceDue := 0, startTime := 0, endTime := 0, traceCount := 0, traceFull := 0 }

/-- A station walker (02 section 2.1). -/
structure Walker where
  state      : StationState
  position   : CellId
  current    : Option CellId
  rerunCell  : Option CellId
  step       : Option Step
  rerun      : Option Step
  holdReason : Reason
  run        : RunRecord
  lastValue  : Int
  lastUnit   : Nat
  startCell  : CellId
deriving DecidableEq, Repr

/-- The six debounced fixture levels; `guard` set means the loop reads closed (03 section 3.1). -/
structure FixtureLevels where
  nest   : Bool
  closed : Bool
  opened : Bool
  startL : Bool
  startR : Bool
  guard  : Bool
deriving DecidableEq, Repr

/-- A fixture controller (03). `drive` set commands closing. Its debouncers (R50, R51): `raw` counts for each input
the increments of rack time since its raw level came to differ from its debounced level, and `codeCount` those since
the code bits came to hold the combination `codeRaw` (log 10). -/
structure Fixture where
  state         : Option FixtureState
  levels        : FixtureLevels
  code          : BitVec 6
  raw           : Vector Nat 6
  codeRaw       : BitVec 6
  codeCount     : Nat
  drive         : Bool
  travelTimeout : Nat
  captured      : Option (BitVec 6)
  travelStart   : Option Time
  handTimer     : Option (Time × Nat)
  twoHand       : Bool
  lockedOut     : Bool
  firstPress    : Option Time
  source        : Bool
  matrix        : Option Nat
deriving DecidableEq, Repr

/-- A supply channel (04 section 4.1). -/
structure Supply where
  state        : SupplyState
  setpoint     : Nat
  commanded    : Nat
  limit        : Nat
  rampTime     : Nat
  tripDelay    : Nat
  rampDuration : Nat
  rampFrom     : Nat
  rampElapsed  : Nat
  rampStart    : Time
  inLimit      : Bool
  tripCount    : Nat
  tripDue      : Bool
  history      : List (Nat × Nat)
  current      : Nat
  voltage      : Nat
deriving DecidableEq, Repr

/-- The counts a generator runs or is to run: period, high count and idle level (set = HIGH); period
0 stands for stopped (R91, R93). -/
structure Counts where
  period : Nat
  high   : Nat
  idle   : Bool
deriving DecidableEq, Repr

/-- A ramp in progress (R96); `duty` and `idle` are what its steps load (R99). -/
structure Ramp where
  rate  : Nat
  from_ : Nat
  start : Time
  steps : Nat
  duty  : Nat
  idle  : Bool
deriving DecidableEq, Repr

/-- A pulse generator (R87). -/
structure PulseGen where
  target  : Nat
  present : Nat
  duty    : Nat
  idle    : Bool
  running : Counts
  pending : Option Counts
  ramp    : Option Ramp
  limited : Bool
deriving DecidableEq, Repr

/-- A level output; 65535 is OPEN (R95). -/
structure LevelOut where
  target  : Nat
  present : Nat
  ramp    : Option Ramp
  limited : Bool
deriving DecidableEq, Repr

/-- A stimulus unit (05 section 5.1). -/
structure Stimulus where
  pg : Vector PulseGen 4
  lv : Vector LevelOut 4
  dl : BitVec 16
  mv : Vector (BitVec 16) 8
deriving DecidableEq, Repr

/-- A schedule entry as read (06 section 6.4), or as loaded with period clamped and offset reduced. -/
structure Entry where
  enable    : Nat
  address   : Nat
  direction : Nat
  length    : Nat
  period    : Nat
  offset    : Nat
  bound     : Nat
  source    : Nat
  position  : Nat
  width     : Nat
  order     : Nat
  ratio     : Int
  payload   : List Byte
deriving DecidableEq, Repr

/-- A frame in progress (06 section 6.2). `bytes` are the data sent (SEND). -/
structure Frame where
  entry    : Fin 16
  fetch    : Bool
  length   : Nat
  address  : Nat
  bytes    : List Byte
  window   : Bool
  received : List Byte
  decided  : Option FrameResult
  noise    : Bool
deriving DecidableEq, Repr

/-- A reception entry (06 section 6.5). -/
structure Reception where
  data      : List Byte
  length    : Nat
  lastError : FrameResult
  noise     : Bool
  time      : Time
  good      : Nat
  bad       : Nat
  overrun   : Nat
  sequence  : BitVec 16
deriving DecidableEq, Repr

/-- A line controller (06). `due` is the due list, head first: entry and key. -/
structure Line where
  divisor       : Nat
  stopBits      : Nat
  allowance     : Nat
  state         : LineState
  schedule      : Option (Vector Entry 16)
  nextDue       : Vector Time 16
  due           : List (Fin 16 × Time)
  frame         : Option Frame
  gap           : Bool
  pendingReload : Option (Vector Entry 16)
  pendingStop   : Bool
  idleCount     : Nat
  stuckHeld     : Bool
  stuckFlag     : Bool
  stuckCount    : Nat
  framesDone    : Word
  framesBad     : Word
  lastEntry     : Fin 16
  lastResult    : FrameResult
  reception     : Vector Reception 16
deriving DecidableEq, Repr

/-- An observed input's monitor (R139). -/
structure InputMonitor where
  level    : Bool
  edges    : Nat
  lastEdge : Time
  rejected : Nat
  filter   : Nat
  edgeCode : Nat
  changed  : Bool
deriving DecidableEq, Repr

/-- An open edge window (R140). -/
structure EdgeWindow where
  input  : Fin 8
  start  : Time
  length : Nat
  count  : Nat
deriving DecidableEq, Repr

/-- A frequency meter (07 section 7.6): its published items and its running counts. `shown` is the state as
last published: it moves at an arming, at the end of a measurement and at a disarm alone (R145). `mark` is the
stamp up to which the high ticks are counted. -/
structure Meter where
  state     : MeterState
  shown     : MeterState
  input     : Fin 8
  gate      : Nat
  lastP     : Nat
  lastT     : Nat
  lastHc    : Nat
  noSignal  : Bool
  armedAt   : Time
  periods   : Nat
  highTicks : Nat
  first     : Tick
  mark      : Tick
deriving DecidableEq, Repr

/-- A lamp cell (R148). -/
structure LampCell where
  intensity   : Byte
  lit         : Bool
  transitions : Nat
  onset       : Time
  onsetSeen   : Bool
  blink       : Nat
deriving DecidableEq, Repr

/-- A station's lamp head and scanner (07 section 7.7). -/
structure LampHead where
  rows     : Nat
  columns  : Nat
  dwell    : Nat
  onLevel  : Nat
  offLevel : Nat
  present  : Bool
  pending  : Bool
  scanning : Bool
  row      : Nat
  frames   : Word
  cells    : Vector LampCell 64
deriving DecidableEq, Repr

/-- A station's own parts of the acquisition unit (07). -/
structure Monitors where
  inputs : Vector InputMonitor 8
  window : Option EdgeWindow
  meters : Vector Meter 2
  head   : LampHead
deriving DecidableEq, Repr

/-- A station column (00 section 3.2). -/
structure Station where
  walker : Walker
  fx     : Fixture
  ps     : Supply
  st     : Stimulus
  lc     : Line
  aq     : Monitors
deriving DecidableEq, Repr

/-! ### Rack-wide blocks -/

/-- Who asked for a conversion (07 section 7.3). -/
inductive Requester where
  | walker | fixture
deriving DecidableEq, Repr

/-- A conversion request; `channel` none is CT (07 section 7.3). -/
structure Request where
  channel   : Option (Fin 8)
  samples   : Nat
  hold      : Nat
  done      : Nat
  sum       : Nat
  requester : Requester
deriving DecidableEq, Repr

/-- What the converter samples: a tap of the reference (REFH set) or a station's request. -/
inductive SampleInput where
  | reference (high : Bool)
  | request (station : StationId)
deriving DecidableEq, Repr

/-- The sample in progress; `live` is cleared when its code is to be discarded (R134). -/
structure Sample where
  input : SampleInput
  hold  : Nat
  live  : Bool
deriving DecidableEq, Repr

/-- A reference check running (R136). -/
structure RefCheck where
  done : Nat
  high : Nat
  low  : Nat
deriving DecidableEq, Repr

/-- The converter and its queue (07 section 7.3). -/
structure Converter where
  queue       : Vector (Option Request) 4
  lastGranted : StationId
  sample      : Option Sample
  refCheck    : Option RefCheck
  refFlag     : Bool
deriving DecidableEq, Repr

/-- A panel entry (10 section 10.2); `notice` carries the reason of a NOTICE and is none for a PROMPT. -/
structure PanelEntry where
  station      : StationId
  notice       : Option FaultReason
  urgent       : Bool
  acknowledge  : Bool
  text         : List Byte
  slot         : Nat
  cell         : CellId
  runNumber    : BitVec 16
  remaining    : Option Nat
  shown        : Nat
  repeatOffset : Nat
  repeatCount  : Nat
  rerun        : Bool
deriving DecidableEq, Repr

/-- The panel controller (10 section 10.2). `keyRaw` counts for each key the increments of rack time since
its raw level came to differ from its debounced level without a break (R174). -/
structure Panel where
  showing   : Option PanelEntry
  queue     : List PanelEntry
  showTime  : Time
  display   : List Byte
  image     : Option (List Byte)
  buzzerEnd : Option Time
  beepTime  : Time
  keys      : Vector Bool 4
  keyRaw    : Vector Nat 4
  lamps     : Vector Lamp 4
deriving DecidableEq, Repr

/-- The latched rack configuration (R194). -/
structure RackConfig where
  mask           : BitVec 4
  sweepInterval  : Nat
  fixtureDebounce : Nat
  panelDebounce  : Nat
  twoHandWindow  : Nat
  idleSlot       : Nat
deriving DecidableEq, Repr

/-- GUARDLOG (R11). -/
structure GuardLog where
  offset  : BitVec 16
  written : Byte
  found   : BitVec 3
  multi   : Bool
deriving DecidableEq, Repr

/-- Everything of the part but the queue of commands. `touched` is the model's own (log 15): for each station,
one bit for each header word in which the event in progress has moved an item; it stands from event to event. -/
structure Part where
  mem            : Memory
  inReset        : Option ResetCause
  rackTime       : Time
  portData       : Word
  freeCount      : Nat
  enabled        : Bool
  sweepRequested : Bool
  sweepBase      : Option Time
  attn           : BitVec 22
  attnMask       : BitVec 22
  attnPin        : Bool
  guardLog       : GuardLog
  config         : RackConfig
  conv           : Converter
  panel          : Panel
  stations       : Vector Station 4
  touched        : Vector (BitVec 64) 4
deriving DecidableEq, Repr

/-- The machine: the part and the commands that wait, first in, first out. -/
structure State where
  part    : Part
  pending : List Instr
deriving DecidableEq, Repr

/-! ### Reset values -/

/-- The walker after any reset (R47); the run record and the last value are "not written" (log 4). -/
def Walker.reset : Walker :=
  { state := .off, position := 0, current := none, rerunCell := none, step := none, rerun := none,
    holdReason := .ok, run := .never, lastValue := 0, lastUnit := 0, startCell := 0 }

/-- The fixture controller after a power-on (R54; levels and code: log 3; travel timeout: log 4). -/
def Fixture.reset : Fixture :=
  { state := none, levels := ⟨false, false, false, false, false, false⟩, code := 63,
    raw := Vector.replicate 6 0, codeRaw := 63, codeCount := 0, drive := false,
    travelTimeout := Config.longestTravel, captured := none, travelStart := none, handTimer := none,
    twoHand := false, lockedOut := false, firstPress := none, source := false, matrix := none }

/-- Eight zero samples (R74, R80). -/
def Supply.noHistory : List (Nat × Nat) := List.replicate 8 (0, 0)

/-- The supply channel after any reset (R74). -/
def Supply.reset : Supply :=
  { state := .off, setpoint := 0, commanded := 0, limit := 0, rampTime := 0, tripDelay := 0,
    rampDuration := 0, rampFrom := 0, rampElapsed := 0, rampStart := 0, inLimit := false,
    tripCount := 0, tripDue := false, history := Supply.noHistory, current := 0, voltage := 0 }

/-- The park value of a pulse generator (R102). -/
def PulseGen.park : PulseGen :=
  { target := 0, present := 0, duty := 500, idle := false, running := ⟨0, 0, false⟩,
    pending := none, ramp := none, limited := false }

/-- The park value of a level output (R102). -/
def LevelOut.park : LevelOut := { target := 65535, present := 65535, ramp := none, limited := false }

/-- The park values of a station (R102), which are also its reset values (R88). -/
def Stimulus.park : Stimulus :=
  { pg := Vector.replicate 4 .park, lv := Vector.replicate 4 .park, dl := 0,
    mv := Vector.replicate 8 0 }

/-- A reception entry of zeros (R114, R123). -/
def Reception.zero : Reception :=
  { data := List.replicate 8 0, length := 0, lastError := .ok, noise := false, time := 0, good := 0,
    bad := 0, overrun := 0, sequence := 0 }

/-- The line controller after a power-on (R114; the rest: log 4). -/
def Line.reset : Line :=
  { divisor := 1, stopBits := 1, allowance := 2, state := .dormant, schedule := none,
    nextDue := Vector.replicate 16 0, due := [], frame := none, gap := false, pendingReload := none,
    pendingStop := false, idleCount := 0, stuckHeld := false, stuckFlag := false, stuckCount := 0,
    framesDone := 0, framesBad := 0, lastEntry := 0, lastResult := .ok,
    reception := Vector.replicate 16 .zero }

/-- An input monitor before the first enable (log 4). -/
def InputMonitor.reset : InputMonitor :=
  { level := false, edges := 0, lastEdge := 0, rejected := 0, filter := 0, edgeCode := 0,
    changed := false }

/-- A meter after an enable (R145), with its running counts at 0. -/
def Meter.reset : Meter :=
  { state := .idle, shown := .idle, input := 0, gate := 0, lastP := 0, lastT := 0, lastHc := 0,
    noSignal := false, armedAt := 0, periods := 0, highTicks := 0, first := 0, mark := 0 }

/-- The zero record of a lamp cell (R146). -/
def LampCell.zero : LampCell :=
  { intensity := 0, lit := false, transitions := 0, onset := 0, onsetSeen := false, blink := 0 }

/-- The lamp head before the first enable (log 4). -/
def LampHead.reset : LampHead :=
  { rows := 1, columns := 1, dwell := 0, onLevel := 0, offLevel := 0, present := false,
    pending := false, scanning := false, row := 0, frames := 0, cells := Vector.replicate 64 .zero }

/-- The station's monitors before the first enable. -/
def Monitors.reset : Monitors :=
  { inputs := Vector.replicate 8 .reset, window := none, meters := Vector.replicate 2 .reset,
    head := .reset }

/-- A station column after a power-on. -/
def Station.reset : Station :=
  { walker := .reset, fx := .reset, ps := .reset, st := .park, lc := .reset, aq := .reset }

/-- The converter after any reset (R135, R136). -/
def Converter.reset : Converter :=
  { queue := Vector.replicate 4 none, lastGranted := 3, sample := none, refCheck := none,
    refFlag := false }

/-- The 48 spaces of a blank display. -/
def Panel.blank : List Byte := List.replicate 48 0x20

/-- The panel after any reset (R176). -/
def Panel.reset : Panel :=
  { showing := none, queue := [], showTime := 0, display := Panel.blank, image := none,
    buzzerEnd := none, beepTime := 0, keys := Vector.replicate 4 false,
    keyRaw := Vector.replicate 4 0, lamps := Vector.replicate 4 .off }

/-- The latched rack values after any reset (R194). -/
def RackConfig.reset : RackConfig :=
  { mask := 0, sweepInterval := 255, fixtureDebounce := 50, panelDebounce := 50,
    twoHandWindow := 1000, idleSlot := 255 }

/-- An empty GUARDLOG (R11). -/
def GuardLog.empty : GuardLog := { offset := 0, written := 0, found := 0, multi := false }

/-- The part right after a power-on reset has ended. Memory lists the reset record alone: cause 1,
enabled 0, mask 0 (R199, R200; the rest of memory: log 1). -/
def Part.reset : Part :=
  { mem := [(Config.resetRecord, 1)], inReset := none, rackTime := 0, portData := 0, freeCount := 0,
    enabled := false, sweepRequested := false, sweepBase := none, attn := 0, attnMask := 0,
    attnPin := false, guardLog := .empty, config := .reset, conv := .reset, panel := .reset,
    stations := Vector.replicate 4 .reset, touched := Vector.replicate 4 0 }

/-- The machine right after reset, with no command waiting. -/
def State.reset : State := { part := .reset, pending := [] }

end Sys2Proof.Machine
end

