-- ==== Sys2Proof/Machine/Codes.lean ====
section
/-! DEFINITION. The code tables of 12.7 and 12.8 (R112, R201): what each name is written as, and which
name a code read from memory stands for. -/

namespace Sys2Proof.Machine

/-! ### Cell states (01 section 1.4) -/

def cellEmpty : Byte := 0x00
def cellReady : Byte := 0x01
def cellActive : Byte := 0x02
def cellWaiting : Byte := 0x03
def cellDone : Byte := 0x04
def cellAbandoned : Byte := 0x05

/-! ### Flags of a state word (12.5) -/

def flagNotify : Byte := 0x01
def flagStopFail : Byte := 0x02
def flagTrace : Byte := 0x04
def flagNoWait : Byte := 0x08

/-- Whether a state-word flag is set. -/
def hasFlag (flags flag : Byte) : Bool := flags &&& flag != 0

/-! ### Codes written -/

def Verdict.code : Verdict → Byte
  | .none => 0 | .pass => 1 | .fail => 2 | .error => 3

def Reason.code : Reason → Byte
  | .ok => 0 | .belowLimit => 1 | .aboveLimit => 2 | .outOfScale => 3 | .noResponse => 4
  | .lineError => 5 | .noSignal => 6 | .operatorNo => 7 | .operatorStop => 8 | .timeout => 9
  | .contactFail => 10 | .noPart => 11 | .notClamped => 12 | .noFixture => 13
  | .wrongFixture => 14 | .interlock => 15 | .overcurrent => 16 | .jammed => 17 | .noSupply => 18
  | .supplyOn => 19 | .noHead => 20 | .badKind => 21 | .badParam => 22 | .notInRun => 23
  | .runOpen => 24 | .halted => 25 | .disabled => 26 | .interrupted => 27 | .operatorRelease => 28

/-- The reason code a fault report becomes (R38). -/
def FaultReason.reason : FaultReason → Reason
  | .overcurrent => .overcurrent | .interlock => .interlock | .jammed => .jammed | .noPart => .noPart

def StationState.code : StationState → BitVec 4
  | .off => 0 | .idle => 1 | .busy => 2 | .waiting => 3 | .stopped => 4 | .faulted => 5

def RunState.code : RunState → Byte
  | .none => 0 | .opened => 1 | .passed => 2 | .failed => 3 | .aborted => 4

/-- The run state a header byte names (12.8); a byte outside the table names none (R48 step 1). -/
def RunState.ofCode (b : Byte) : Option RunState :=
  if b = 0 then some .none else if b = 1 then some .opened else if b = 2 then some .passed
  else if b = 3 then some .failed else if b = 4 then some .aborted else Option.none

def FixtureState.code : FixtureState → Byte
  | .opened => 0 | .arming => 1 | .closing => 2 | .clamped => 3 | .opening => 4 | .jammed => 5

def SupplyState.code : SupplyState → Byte
  | .off => 0 | .ramping => 1 | .on => 2 | .tripped => 3

def LineState.code : LineState → Byte
  | .dormant => 0 | .quiet => 1 | .syncing => 2 | .running => 3

def MeterState.code : MeterState → Byte
  | .idle => 0 | .armed => 1 | .counting => 2 | .closing => 3

def FrameResult.code : FrameResult → Byte
  | .ok => 0 | .bitError => 1 | .noResponse => 2 | .short => 3 | .framing => 4 | .mark => 5
  | .check => 6 | .stuck => 7

def ResetCause.code : ResetCause → Byte
  | .powerOn => 1 | .pin => 2 | .soft => 3

/-- A Bool published as 0 or 1. -/
def bit (b : Bool) : Byte := if b then 1 else 0

/-! ### Codes read -/

/-- The kind a state word names (12.7); an unlisted code names none (R23 step 1). -/
def Kind.ofCode (b : Byte) : Option Kind :=
  if b = 0x01 then some .begin else if b = 0x02 then some .finish else if b = 0x03 then some .wait
  else if b = 0x10 then some .clamp else if b = 0x11 then some .release
  else if b = 0x12 then some .contact else if b = 0x18 then some .power
  else if b = 0x20 then some .set else if b = 0x28 then some .send
  else if b = 0x30 then some .measure else if b = 0x38 then some .listen
  else if b = 0x40 then some .prompt else none

/-- The number read as one of the first `n`, if it is one. -/
def index (n v : Nat) : Option (Fin n) := if h : v < n then some ⟨v, h⟩ else none

/-- The channel a code names (12.8): 0 to 3 PG, 4 to 7 LV, 8 to 15 MV. -/
def Channel.ofCode (v : Nat) : Option Channel :=
  if v < 4 then (index 4 v).map .pg
  else if v < 8 then (index 4 (v - 4)).map .lv
  else (index 8 (v - 8)).map .mv

end Sys2Proof.Machine
end

