-- ==== Sys2Proof/Machine/Header.lean ====
section
/-! DEFINITION. The station header (12.4) as the station's blocks hold it, word by word, and the marks of the
words that change. -/

namespace Sys2Proof.Machine

/-- A word of four bytes, byte 0 lowest. -/
def word4 (b0 b1 b2 b3 : Byte) : Word := b3 ++ b2 ++ b1 ++ b0

/-- A word of two half words, the first lowest. -/
def word2 (h0 h1 : BitVec 16) : Word := h1 ++ h0

/-- A number as a byte, a half word, a word. -/
def n8 (v : Nat) : Byte := BitVec.ofNat 8 v
def n16 (v : Nat) : BitVec 16 := BitVec.ofNat 16 v
def n32 (v : Nat) : Word := BitVec.ofNat 32 v

/-- A cell index as published, 255 for none. -/
def cellByte : Option CellId → Byte
  | some c => n8 c.val
  | none => 255

/-- The walker's words 0x00 to 0x28. -/
def Walker.words (w : Walker) : List (Nat × Word) :=
  [ (0x00, word4 (w.state.code.setWidth 8) (n8 w.position.val) (cellByte w.current)
      (cellByte w.rerunCell)),
    (0x04, word4 w.holdReason.code (n8 w.startCell.val) (n8 w.lastUnit) 0),
    (0x08, BitVec.ofInt 32 w.lastValue),
    (0x0C, word4 w.run.state.code w.run.serviceDue w.run.firstCell w.run.firstReason),
    (0x10, word2 w.run.number w.run.taken),
    (0x14, word2 w.run.passed w.run.failed),
    (0x18, word2 w.run.errored w.run.unjudged),
    (0x1C, word2 w.run.abandoned w.run.firstSeq),
    (0x20, word4 w.run.fixtureCode w.run.traceCount w.run.traceFull 0),
    (0x24, w.run.startTime),
    (0x28, w.run.endTime) ]

/-- The six levels as one byte (12.4). -/
def FixtureLevels.byte (l : FixtureLevels) : Byte :=
  bit l.nest ||| (bit l.closed <<< 1) ||| (bit l.opened <<< 2) ||| (bit l.startL <<< 3) |||
    (bit l.startR <<< 4) ||| (bit l.guard <<< 5)

/-- A fixture code as published, 255 for none. -/
def codeByte : Option (BitVec 6) → Byte
  | some c => c.setWidth 8
  | none => 255

/-- The words of the fixture controller and the supply channel, 0x2C to 0x3C. -/
def unitWords (f : Fixture) (u : Supply) : List (Nat × Word) :=
  [ (0x2C, word4 (f.state.elim 0 FixtureState.code) f.levels.byte (f.code.setWidth 8) (bit f.drive)),
    (0x30, word4 (codeByte f.captured) u.state.code (bit u.inLimit) (n8 u.tripDelay)),
    (0x34, word2 (n16 u.setpoint) (n16 u.commanded)),
    (0x38, word2 (n16 u.limit) (n16 u.rampTime)),
    (0x3C, word2 (n16 u.current) (n16 u.voltage)) ]

/-- The words of the line controller and the lamp scanner, 0x40 to 0x50. -/
def lineWords (l : Line) (h : LampHead) : List (Nat × Word) :=
  [ (0x40, word4 l.state.code (bit l.stuckFlag) (n8 l.lastEntry.val) l.lastResult.code),
    (0x44, l.framesDone),
    (0x48, l.framesBad),
    (0x4C, word2 (n16 l.stuckCount) (if h.present then 1 else 0)),
    (0x50, h.frames) ]

/-- The words of a meter block at an offset; the state is the one last published (R145). -/
def Meter.words (m : Meter) (x : Nat) : List (Nat × Word) :=
  [ (x, word4 m.shown.code (n8 m.input.val) (n8 m.gate) (n8 (m.gate / 256))),
    (x + 4, n32 m.lastP),
    (x + 8, n32 m.lastT),
    (x + 12, n32 m.lastHc),
    (x + 16, word4 (bit m.noSignal) 0 0 0) ]

/-- The flags byte of a PG or LV block: ramp-active in bit 0, LIMITED in bit 1 (12.4). -/
def channelFlags (ramp : Option Ramp) (limited : Bool) : Byte :=
  bit ramp.isSome ||| (bit limited <<< 1)

/-- The words of a PG block at an offset. -/
def PulseGen.words (g : PulseGen) (x : Nat) : List (Nat × Word) :=
  [ (x, n32 g.target),
    (x + 4, n32 g.present),
    (x + 8, n32 g.running.period),
    (x + 12, n32 g.running.high),
    (x + 16, word4 (n8 g.duty) (n8 (g.duty / 256)) (bit g.idle) (channelFlags g.ramp g.limited)) ]

/-- The flags half word of an LV block. -/
def LevelOut.flagsHalf (v : LevelOut) : BitVec 16 := (channelFlags v.ramp v.limited).setWidth 16

/-- The stimulus image, 0x80 to 0xF8. -/
def Stimulus.words (t : Stimulus) : List (Nat × Word) :=
  t.pg[0].words 0x80 ++ t.pg[1].words 0x94 ++ t.pg[2].words 0xA8 ++ t.pg[3].words 0xBC ++
  [ (0xD0, word2 (n16 t.lv[0].target) (n16 t.lv[0].present)),
    (0xD4, word2 t.lv[0].flagsHalf (n16 t.lv[1].target)),
    (0xD8, word2 (n16 t.lv[1].present) t.lv[1].flagsHalf),
    (0xDC, word2 (n16 t.lv[2].target) (n16 t.lv[2].present)),
    (0xE0, word2 t.lv[2].flagsHalf (n16 t.lv[3].target)),
    (0xE4, word2 (n16 t.lv[3].present) t.lv[3].flagsHalf),
    (0xE8, word2 t.dl 0),
    (0xEC, word2 t.mv[0] t.mv[1]),
    (0xF0, word2 t.mv[2] t.mv[3]),
    (0xF4, word2 t.mv[4] t.mv[5]),
    (0xF8, word2 t.mv[6] t.mv[7]) ]

/-- The station header as the blocks hold it: every word the part publishes there. -/
def Station.header (x : Station) : List (Nat × Word) :=
  x.walker.words ++ unitWords x.fx x.ps ++ lineWords x.lc x.aq.head ++ x.aq.meters[0].words 0x54 ++
    x.aq.meters[1].words 0x68 ++ x.st.words

/-- The words of a new header that differ from the old one, or that are marked (one bit a word). -/
def dueWords (old new : List (Nat × Word)) (marked : BitVec 64) : List (Nat × Word) :=
  ((new.zip old).filter fun c => decide (c.1.2 ≠ c.2.2) || marked.getLsbD (c.1.1 / 4)).map Prod.fst

/-- The mark of the header word at an offset. -/
def wordMark (x : Nat) : BitVec 64 := 1#64 <<< (x / 4)

/-- The marks of the header words in which two columns of a station differ. -/
def Station.marks (old new : Station) : BitVec 64 :=
  (dueWords old.header new.header 0).foldl (fun b w => b ||| wordMark w.1) 0

end Sys2Proof.Machine
end

