-- ==== Sys2Proof/Machine/Ops.lean ====
section
/-! DEFINITION. The named operations over exchange memory, rack time, exact arithmetic and the station
columns, which every meaning uses. -/

namespace Sys2Proof.Machine

/-! ### Exchange memory (01 R1, R3; 12 R201) -/

/-- The byte at an offset; an unlisted byte reads 0 (log 1). -/
def Memory.read : Memory → Nat → Byte
  | [], _ => 0
  | (a, b) :: m, x => if x = a then b else Memory.read m x

/-- Puts one byte, keeping the canonical form: addresses rising, no byte 0 listed. -/
def Memory.insert : Memory → Nat → Byte → Memory
  | [], x, v => if v = 0 then [] else [(x, v)]
  | (a, b) :: m, x, v =>
    if x < a then (if v = 0 then (a, b) :: m else (x, v) :: (a, b) :: m)
    else if x = a then (if v = 0 then m else (x, v) :: m)
    else (a, b) :: Memory.insert m x v

/-- Writes one byte of exchange memory; there is none from 0xFFE0 on (01 section 1.1). -/
def Memory.write (m : Memory) (x : Nat) (v : Byte) : Memory :=
  if x < Config.memoryEnd then m.insert x v else m

/-- Whether addresses rise strictly from `low`, below the end of memory, with no byte 0 listed. -/
def Memory.wfFrom (low : Nat) : Memory → Bool
  | [] => true
  | (a, b) :: m =>
    decide (low ≤ a) && decide (a < Config.memoryEnd) && decide (b ≠ 0) && Memory.wfFrom (a + 1) m

/-- The canonical form of exchange memory. -/
def Memory.wf (m : Memory) : Bool := Memory.wfFrom 0 m

/-- The `n` bytes at an offset as one little-endian number. -/
def Memory.readLE (m : Memory) (x : Nat) : Nat → Nat
  | 0 => 0
  | n + 1 => (m.read x).toNat + 256 * Memory.readLE m (x + 1) n

/-- Writes the low `n` bytes of a number, little-endian. -/
def Memory.writeLE (m : Memory) (x : Nat) : Nat → Nat → Memory
  | 0, _ => m
  | n + 1, v => Memory.writeLE (m.write x (BitVec.ofNat 8 v)) (x + 1) n (v / 256)

/-- Writes the bytes of a list one after another. -/
def Memory.writeBytes (m : Memory) (x : Nat) : List Byte → Memory
  | [] => m
  | b :: bs => Memory.writeBytes (m.write x b) (x + 1) bs

/-- Writes `n` bytes of 0 at an offset: drops every listed byte there. -/
def Memory.zero (m : Memory) (x n : Nat) : Memory :=
  m.filter fun c => decide (c.1 < x) || decide (x + n ≤ c.1)

/-- The `n` bytes at an offset in order. -/
def Memory.bytes (m : Memory) (x : Nat) : Nat → List Byte
  | 0 => []
  | n + 1 => m.read x :: Memory.bytes m (x + 1) n

/-- Memory holding the given cells, a later one over an earlier, in canonical form (log 2). -/
def Memory.ofCells (cells : List Host.Cell) : Memory :=
  cells.foldl (fun m c => Memory.write m c.1 c.2) []

/-- Reads of one, two, three and four bytes, unsigned. -/
def Part.u8 (p : Part) (x : Nat) : Nat := p.mem.readLE x 1
def Part.u16 (p : Part) (x : Nat) : Nat := p.mem.readLE x 2
def Part.u32 (p : Part) (x : Nat) : Nat := p.mem.readLE x 4

/-- A number of `n` bits as two's complement (12 opening). -/
def signed (n v : Nat) : Int := if v < 2 ^ (n - 1) then v else (v : Int) - 2 ^ n

def Part.s16 (p : Part) (x : Nat) : Int := signed 16 (p.u16 x)
def Part.s32 (p : Part) (x : Nat) : Int := signed 32 (p.u32 x)

/-- The word at an offset. -/
def Part.word (p : Part) (x : Nat) : Word := BitVec.ofNat 32 (p.u32 x)

/-- Writes of one, two and four bytes. -/
def Part.poke8 (p : Part) (x : Nat) (v : Byte) : Part := { p with mem := p.mem.write x v }
def Part.poke16 (p : Part) (x v : Nat) : Part := { p with mem := p.mem.writeLE x 2 v }
def Part.poke32 (p : Part) (x v : Nat) : Part := { p with mem := p.mem.writeLE x 4 v }

/-- A signed number as the 32 bits it is written as. -/
def s32Bits (v : Int) : Nat := (BitVec.ofInt 32 v).toNat

/-! ### Rack time (00 section 6.4) -/

/-- Milliseconds passed since a rack time, modulo 2^32. -/
def Part.since (p : Part) (start : Time) : Nat := (p.rackTime - start).toNat

/-- A duration in ms has passed from its start. -/
def Part.passed (p : Part) (start : Time) (duration : Nat) : Bool := decide (duration ≤ p.since start)

/-- A rack time has been reached: it lies less than half the range back. -/
def Part.reached (p : Part) (time : Time) : Bool := decide ((p.rackTime - time).toNat < 2 ^ 31)

/-- The rack time a duration from now. -/
def Part.after (p : Part) (duration : Nat) : Time := p.rackTime + BitVec.ofNat 32 duration

/-! ### Rounding and saturation (00 section 6.5) -/

/-- Round half up of `num / den`. -/
def roundHalfUp (num : Int) (den : Nat) : Int := (2 * num + den) / (2 * den)

/-- Round away of `num / den`: half the divisor is added to the magnitude (R155, R158). -/
def roundAway (num : Int) (den : Nat) : Int :=
  if num < 0 then -((-num + (den / 2 : Nat)) / den) else (num + (den / 2 : Nat)) / den

/-- Saturation to a range. -/
def saturate (low high v : Int) : Int := if v < low then low else if high < v then high else v

/-- A number held within a range (00 section 6.7: clamped). -/
def clampNat (low high v : Nat) : Nat := if v < low then low else if high < v then high else v

/-- One more, up to a limit where the count stays. -/
def countUp (limit v : Nat) : Nat := if v < limit then v + 1 else v

/-- A debouncer's count at an increment of rack time: the increments since the difference it counts began, so that a
difference that began in the ms now ending counts 1 (00 section 6.4), up to the debounce time; 0 without one. -/
def countHeld (limit : Nat) (differs anew : Bool) (v : Nat) : Nat :=
  if differs then (if anew then 1 else countUp limit v) else 0

/-- The count of pin `k`. -/
def rawCount {n : Nat} (r : RawMs n) (limit : Nat) (k : Fin n) (v : Nat) : Nat :=
  countHeld limit (r.differs.getLsbD k.val) (r.anew.getLsbD k.val) v

/-! ### Station columns -/

/-- The station column of a number. -/
def Part.station (p : Part) (i : StationId) : Station := p.stations[i]

/-- Marks header words of a station as to be published when the event closes, whether or not they then hold
another value than before it (log 15). -/
def Part.mark (p : Part) (i : StationId) (words : BitVec 64) : Part :=
  { p with touched := put p.touched i (p.touched[i] ||| words) }

/-- Marks the header words a change of the station column would move, for an item that takes a value on its way
to another within one event. -/
def Part.passing (p : Part) (i : StationId) (f : Station → Station) : Part :=
  p.mark i ((p.station i).marks (f (p.station i)))

/-- Changes one station column, and marks the header words that change with it (R20, log 15). -/
def Part.modify (p : Part) (i : StationId) (f : Station → Station) : Part :=
  { p.passing i f with stations := put p.stations i (f (p.station i)) }

def Part.setWalker (p : Part) (i : StationId) (f : Walker → Walker) : Part :=
  p.modify i fun x => { x with walker := f x.walker }

def Part.setFx (p : Part) (i : StationId) (f : Fixture → Fixture) : Part :=
  p.modify i fun x => { x with fx := f x.fx }

def Part.setPs (p : Part) (i : StationId) (f : Supply → Supply) : Part :=
  p.modify i fun x => { x with ps := f x.ps }

def Part.setSt (p : Part) (i : StationId) (f : Stimulus → Stimulus) : Part :=
  p.modify i fun x => { x with st := f x.st }

def Part.setLc (p : Part) (i : StationId) (f : Line → Line) : Part :=
  p.modify i fun x => { x with lc := f x.lc }

def Part.setAq (p : Part) (i : StationId) (f : Monitors → Monitors) : Part :=
  p.modify i fun x => { x with aq := f x.aq }

/-- Carries one event to the stations in their order (log 5). -/
def Part.eachStation (p : Part) (f : StationId → Part → Part) : Part :=
  stationIds.foldl (fun q i => f i q) p

/-- The step the station's blocks are working: the re-run's while one is in flight (R46, R187). -/
def Walker.active (w : Walker) : Option Step :=
  match w.rerun with
  | some r => some r
  | none => w.step

/-- The work of the step the station's blocks are working. -/
def Walker.work (w : Walker) : Work :=
  match w.active with
  | some t => t.work
  | none => .none

/-- Gives the step being worked its work. -/
def Walker.setWork (w : Walker) (k : Work) : Walker :=
  match w.rerun with
  | some r => { w with rerun := some { r with work := k } }
  | none => { w with step := w.step.map fun t => { t with work := k } }

/-- A supply is live while ON or RAMPING (04 section 4.1). -/
def Supply.live (u : Supply) : Bool :=
  match u.state with
  | .on | .ramping => true
  | .off | .tripped => false

/-- The present value of a stimulus channel as its readers take it (R105): mHz, Ω with OPEN as
65535, or the message value. -/
def Stimulus.value (t : Stimulus) : Channel → Int
  | .pg k => t.pg[k].present
  | .lv k => t.lv[k].present
  | .mv k => t.mv[k].toInt

/-! ### The cell guard (01 section 1.4) -/

/-- The state byte of a cell. -/
def Part.cellState (p : Part) (i : StationId) (c : CellId) : Byte := p.mem.read (Config.cell i c)

/-- A part transition of the guard: byte 0 is rewritten and bytes 1 to 3 stand (R10). -/
def Part.setCellState (p : Part) (i : StationId) (c : CellId) (code : Byte) : Part :=
  p.poke8 (Config.cell i c) code

/-- The host transitions the guard accepts (R9). -/
def guardAccepts (found written : Byte) : Bool :=
  if found = written then true
  else if found = cellEmpty then decide (written = cellReady)
  else if written = cellEmpty then
    decide (found = cellReady) || decide (found = cellDone) || decide (found = cellAbandoned) ||
      decide (cellAbandoned.toNat < found.toNat)
  else false

/-- The FOUND code of a refusal (R11): 7 stands for a code outside 0 to 5. -/
def foundCode (found : Byte) : BitVec 3 := if 5 < found.toNat then 7 else found.setWidth 3

/-- What GUARDLOG holds after a refusal (R11). -/
def GuardLog.refuse (g : GuardLog) (offset : Nat) (written found : Byte) : GuardLog :=
  { offset := BitVec.ofNat 16 offset, written := written, found := foundCode found,
    multi := decide (g.offset ≠ 0) }

/-- GUARDLOG as a word (01 section 1.3). -/
def GuardLog.word (g : GuardLog) : Word :=
  g.offset.setWidth 32 ||| (g.written.setWidth 32 <<< 16) ||| (g.found.setWidth 32 <<< 24) |||
    ((if g.multi then 1 else 0 : Word) <<< 31)

/-- The cell whose state word stands at an offset, if one does (01 section 1.4). -/
def stateWordAt (x : Nat) : Option (StationId × CellId) :=
  if x < 0x1000 then none
  else
    match index 4 ((x - 0x1000) / 0x1400) with
    | none => none
    | some i =>
      let y := (x - 0x1000) % 0x1400
      if y < 0x100 then none
      else if (y - 0x100) % 64 = 0 then (index 32 ((y - 0x100) / 64)).map fun c => (i, c)
      else none

end Sys2Proof.Machine
end

