-- ==== Sys2Proof/Machine/Operands.lean ====
section
/-! DEFINITION. The operand forms: the parameters of every kind of step (12.6, R202), the records a step
reads from the station page, and the configuration with its checks (R195). -/

namespace Sys2Proof.Machine

/-! ### Fields of the parameter bytes -/

/-- `n` bytes of the step copy from a cell byte (4 to 35) on, little-endian. -/
def field (params : BitVec 256) (byte n : Nat) : Nat :=
  (params.extractLsb' (8 * (byte - 4)) (8 * n)).toNat

/-- The same as two's complement. -/
def sfield (params : BitVec 256) (byte n : Nat) : Int := signed (8 * n) (field params byte n)

/-- Within the scale limit (R156). -/
def inScale (v : Int) : Bool := decide (-Config.scaleLimit ≤ v) && decide (v ≤ Config.scaleLimit)

/-! ### BEGIN, END, WAIT -/

/-- The expected fixture code of a BEGIN: 0 to 62, or none for any (R41). -/
def beginParams (q : BitVec 256) : Option (Option (BitVec 6)) :=
  let v := field q 4 1
  if v = 255 then some none
  else if v ≤ 62 then some (some (BitVec.ofNat 6 v))
  else none

/-- Whether an END asks for RELEASE: any code but 0 (R202). -/
def endReleases (q : BitVec 256) : Bool := decide (field q 4 1 ≠ 0)

/-- The duration of a WAIT, 1 to 600,000 ms (R45). -/
def waitParams (q : BitVec 256) : Option Nat :=
  let v := field q 4 4
  if 1 ≤ v ∧ v ≤ 600000 then some v else none

/-! ### CLAMP and POWER -/

/-- The two-hand timeout in seconds of a TWO_HAND CLAMP, or none in AUTO mode (R56 step 1). -/
def clampParams (q : BitVec 256) : Option (Option Nat) :=
  let mode := field q 4 1
  let timeout := field q 6 2
  if mode = 0 then some none
  else if mode = 1 then (if timeout ≤ 600 then some (some timeout) else none)
  else none

/-- The four numbers of a POWER ON as clamped (R76), and whether one was replaced. -/
structure PowerNumbers where
  setpoint  : Nat
  limit     : Nat
  rampTime  : Nat
  tripDelay : Nat
  limited   : Bool
deriving DecidableEq, Repr

/-- What a POWER asks for: none for OFF, the clamped numbers for ON (R75 step 1, R76). -/
def powerParams (q : BitVec 256) : Option (Option PowerNumbers) :=
  let action := field q 4 1
  let v := field q 6 2
  let c := field q 8 2
  let r := field q 10 2
  let d := field q 12 2
  if action = 0 then some none
  else if action = 1 then
    let v' := clampNat 6000 16000 v
    let c' := clampNat 100 5000 c
    let r' := clampNat 0 1000 r
    let d' := clampNat 1 250 d
    some (some ⟨v', c', r', d', decide (v' ≠ v ∨ c' ≠ c ∨ r' ≠ r ∨ d' ≠ d)⟩)
  else none

/-! ### SET -/

/-- What a SET asks for, before its numbers are clamped (05 section 5.2). `start` is FROM's value. -/
inductive SetParams where
  | pg (channel : Fin 4) (frequency duty : Nat) (idle : Bool) (rate : Nat) (start : Option Nat)
  | lv (channel : Fin 4) (ohms rate : Nat) (start : Option Nat)
  | dl (mask bits : BitVec 16)
  | mv (channel : Fin 8) (value : BitVec 16)
deriving DecidableEq, Repr

/-- The parameters of a SET, if its class, index and idle level are in the tables (R89 steps 1 to 3). -/
def setParams (q : BitVec 256) : Option SetParams :=
  let cls := field q 4 1
  let start := if field q 7 1 = 0 then none else some (field q 20 4)
  if cls = 0 then
    if field q 6 1 ≤ 1 then
      (index 4 (field q 5 1)).map fun k =>
        .pg k (field q 8 4) (field q 12 2) (decide (field q 6 1 = 1)) (field q 16 4) start
    else none
  else if cls = 1 then
    (index 4 (field q 5 1)).map fun k => .lv k (field q 8 2) (field q 16 4) start
  else if cls = 2 then
    if field q 5 1 = 0 then some (.dl (BitVec.ofNat 16 (field q 12 2)) (BitVec.ofNat 16 (field q 8 2)))
    else none
  else if cls = 3 then
    (index 8 (field q 5 1)).map fun k => .mv k (BitVec.ofNat 16 (field q 8 2))
  else none

/-! ### SEND and PROMPT -/

/-- What a SEND asks for (06 section 6.6). -/
inductive SendParams where
  | start
  | stop
  | once (entry : Fin 16)
deriving DecidableEq, Repr

/-- The parameters of a SEND (R124 steps 1 and 2). -/
def sendParams (q : BitVec 256) : Option SendParams :=
  let action := field q 4 1
  if action = 0 then some .start
  else if action = 1 then some .stop
  else if action = 2 then (index 16 (field q 5 1)).map .once
  else none

/-- The parameters of a PROMPT (10 section 10.3). -/
structure PromptParams where
  slot         : Nat
  acknowledge  : Bool
  urgent       : Bool
  timeout      : Nat
  repeatOffset : Nat
deriving DecidableEq, Repr

/-- A PROMPT's parameters, if they pass R177. -/
def promptParams (q : BitVec 256) : Option PromptParams :=
  let slot := field q 4 1
  let mode := field q 5 1
  let cls := field q 6 1
  let timeout := field q 8 2
  let k := field q 7 1
  if slot ≤ 63 ∧ mode ≤ 1 ∧ cls ≤ 1 ∧ timeout ≤ 600 ∧ k ≤ 4 then
    some ⟨slot, decide (mode = 1), decide (cls = 1), timeout, k⟩
  else none

/-! ### Calibration records (R130) -/

/-- The calibration record `k` of a station (0 to 7 for AN0 to AN7, 8 for CT), if it is valid. -/
def Part.calibration (p : Part) (i : StationId) (k : Nat) : Option Calibration :=
  let x := Config.calibration i k
  let c : Calibration :=
    { offset16 := p.s16 x, hold := p.u8 (x + 2), unit := p.u8 (x + 3), gain := p.u32 (x + 4),
      base := p.s32 (x + 8) }
  if -4096 ≤ c.offset16 ∧ c.offset16 ≤ 4095 ∧ c.hold ≤ 3 ∧ c.unit ≤ 9 ∧ c.gain ≤ 16777215 ∧
      inScale c.base = true then some c
  else none

/-- The scaling a step carries itself: gain at 12, base at 16, its unit code (R161 step 3, R169). -/
def ownScale (q : BitVec 256) (unit : Nat) : Option Calibration :=
  let base := sfield q 16 4
  if unit ≤ 9 ∧ inScale base = true then
    some { offset16 := 0, hold := 0, unit := unit, gain := field q 12 3, base := base }
  else none

/-! ### MEASURE and LISTEN -/

/-- The window of a MEASURE or LISTEN (R161 step 4, 08 section 8.4). -/
def windowParams (q : BitVec 256) : Option Window :=
  let mode := field q 15 1
  let a := sfield q 20 4
  let b := sfield q 24 4
  if mode = 0 then
    if inScale a = true ∧ inScale b = true ∧ a ≤ b then some (.abs a b) else none
  else if mode = 1 then
    if inScale a = true ∧ 0 ≤ b ∧ b ≤ Config.scaleLimit then
      (Channel.ofCode (field q 31 1)).map fun c => .track c (sfield q 28 3) a b
    else none
  else none

/-- The lamp item a code names. -/
def LampItem.ofCode (v : Nat) : Option LampItem :=
  if v = 0 then some .intensity else if v = 1 then some .state else if v = 2 then some .blink else none

/-- The source of a MEASURE with its details (R161 steps 1 and 2). -/
def sourceParams (q : BitVec 256) : Option Source :=
  let code := field q 4 1
  let a := field q 5 1
  let b := field q 6 1
  let w := field q 8 2
  if code = 0 then (index 8 a).bind fun ch => if b ≤ 6 then some (.analog ch b) else none
  else if code = 1 then some .supplyI
  else if code = 2 then some .supplyV
  else if code = 3 then
    (index 2 a).bind fun m => (index 8 b).bind fun n =>
      if 10 ≤ w ∧ w ≤ 2000 then some (.freq m n w) else none
  else if code = 4 then
    (index 2 a).bind fun m => (index 8 b).bind fun n =>
      if 10 ≤ w ∧ w ≤ 2000 then some (.duty m n w) else none
  else if code = 5 then
    (index 8 b).bind fun n => if 1 ≤ w ∧ w ≤ 60000 then some (.edges n w) else none
  else if code = 6 then (index 8 b).map .level
  else if code = 7 then (LampItem.ofCode b).map fun t => .lamp (a / 8) (a % 8) t
  else none

/-- The parameters of a MEASURE, if they pass R161 steps 1 to 6. -/
def Part.measureParams (p : Part) (i : StationId) (q : BitVec 256) : Option MeasureParams :=
  (sourceParams q).bind fun source =>
    let cal : Option Calibration :=
      match source with
      | .analog ch _ => p.calibration i ch.val
      | _ => ownScale q (field q 7 1)
    cal.bind fun c => (windowParams q).bind fun w =>
      let hits := field q 35 1
      let settle := field q 32 3
      let interval := field q 10 2
      if 1 ≤ hits ∧ hits ≤ 15 ∧ settle ≤ 600000 ∧ interval ≤ 1000 then
        some { source := source, cal := c, window := w, hits := hits, settle := settle,
               interval := interval }
      else none

/-- The parameters of a LISTEN, if they pass R169 steps 1 to 4. -/
def listenParams (q : BitVec 256) : Option ListenParams :=
  (index 16 (field q 4 1)).bind fun entry =>
    let offset := field q 5 1
    let width := field q 6 1
    let kind := field q 7 1
    let order := field q 8 1
    let hits := field q 35 1
    let timeout := field q 10 2
    if offset ≤ 7 ∧ (width = 1 ∨ width = 2) ∧ kind ≤ 1 ∧ (width = 1 ∨ order ≤ 1) then
      (ownScale q (field q 9 1)).bind fun c => (windowParams q).bind fun w =>
        if 1 ≤ hits ∧ hits ≤ 15 ∧ 1 ≤ timeout ∧ timeout ≤ 60000 then
          some { entry := entry,
                 field := { offset := offset, wide := decide (width = 2), signed := decide (kind = 1),
                            highFirst := decide (order = 1) },
                 cal := c, window := w, hits := hits, timeout := timeout }
        else none
    else none

/-- Bytes a field spans. -/
def Field.width (f : Field) : Nat := if f.wide then 2 else 1

/-! ### Schedule entries (06 section 6.4) -/

/-- A schedule entry as it stands in the station page. -/
def Part.readEntry (p : Part) (i : StationId) (e : Fin 16) : Entry :=
  let x := Config.scheduleEntry i e
  { enable := p.u8 x, address := p.u8 (x + 1), direction := p.u8 (x + 2), length := p.u8 (x + 3),
    period := p.u16 (x + 4), offset := p.u16 (x + 6), bound := p.u8 (x + 8), source := p.u8 (x + 9),
    position := p.u8 (x + 10), width := p.u8 (x + 11), order := p.u8 (x + 12),
    ratio := p.s16 (x + 14), payload := p.mem.bytes (x + 16) 8 }

/-- An entry is valid (R118; the width of a binding: log 17). -/
def Entry.valid (e : Entry) : Bool :=
  decide (e.enable ≤ 1) && decide (e.direction ≤ 1) && decide (e.bound ≤ 1) &&
    decide (e.source ≤ 15) && decide (e.order ≤ 1) && decide (e.address ≤ 127) &&
    decide (e.length ≤ 8) &&
    (decide (e.bound = 0) ||
      (decide (e.direction = 0) && (decide (e.width = 1) || decide (e.width = 2)) &&
        decide (e.position + e.width ≤ e.length)))

/-- An entry a START checks: one whose enable does not hold the code of off (R118, log 17). -/
def Entry.checked (e : Entry) : Bool := decide (e.enable ≠ 0)

/-- An entry that falls due. -/
def Entry.enabled (e : Entry) : Bool := decide (e.enable = 1)

/-- The loaded form of an entry: period clamped, offset reduced; a disabled entry as it stands (R118). -/
def Entry.loaded (e : Entry) : Entry :=
  if e.enabled then
    let t := clampNat 5 10000 e.period
    { e with period := t, offset := e.offset % t }
  else e

/-- Whether the load clamps the entry's period. -/
def Entry.clamps (e : Entry) : Bool := e.enabled && decide (clampNat 5 10000 e.period ≠ e.period)

/-- The 16 entry numbers in order. -/
def entryIds : List (Fin 16) := List.finRange 16

/-- The schedule table of a station page, as it stands. -/
def Part.readTable (p : Part) (i : StationId) : Vector Entry 16 := Vector.ofFn (p.readEntry i)

/-- The first invalid entry a START finds (R124 step 4). -/
def firstInvalid (t : Vector Entry 16) : Option (Fin 16) :=
  entryIds.find? fun e => t[e].checked && !t[e].valid

/-! ### The configuration and its checks (11 section 11.1, R195) -/

/-- A configuration error: code, station, window offset of the field (12.2). -/
structure ConfigError where
  code    : Nat
  station : Nat
  offset  : Nat
deriving DecidableEq, Repr

/-- The offsets of the fields of a list of checks that fail, first first. -/
def failing (checks : List (Nat × Bool)) : Option Nat :=
  (checks.find? fun c => !c.2).map Prod.fst

/-- The checks of the rack configuration block in address order. -/
def Part.rackChecks (p : Part) : List (Nat × Bool) :=
  let idle := p.u8 6
  [ (0, decide (p.u8 0 ≤ 15)),
    (1, decide (1 ≤ p.u8 1)),
    (2, decide (1 ≤ p.u8 2 ∧ p.u8 2 ≤ 50)),
    (3, decide (5 ≤ p.u8 3 ∧ p.u8 3 ≤ 50)),
    (4, decide (100 ≤ p.u16 4 ∧ p.u16 4 ≤ 1000)),
    (6, decide (idle ≤ 63 ∨ idle = 255)) ]

/-- The checks of a station's configuration in address order; an on threshold not above the off
threshold names the off threshold (12.2). -/
def Part.stationChecks (p : Part) (i : StationId) : List (Nat × Bool) :=
  let x := Config.stationConfig i
  [ (x, decide (1 ≤ p.u16 x ∧ p.u16 x ≤ 8191)),
    (x + 2, decide (p.u8 (x + 2) = 1 ∨ p.u8 (x + 2) = 2)),
    (x + 3, decide (2 ≤ p.u8 (x + 3) ∧ p.u8 (x + 3) ≤ 30)),
    (x + 4, decide (1 ≤ p.u8 (x + 4) ∧ p.u8 (x + 4) ≤ 8)),
    (x + 5, decide (1 ≤ p.u8 (x + 5) ∧ p.u8 (x + 5) ≤ 8)),
    (x + 8, decide (p.u8 (x + 8) < p.u8 (x + 7))),
    (x + 9, decide (p.u8 (x + 9) ≤ 31)) ] ++
  ((List.range 8).map fun n => (x + 10 + n, decide (p.u8 (x + 10 + n) ≤ 3))) ++
  ((List.range 8).map fun n => (x + 18 + n, decide (p.u8 (x + 18 + n) ≤ 2)))

/-- The station enable mask as read from the rack configuration block. -/
def Part.readMask (p : Part) : BitVec 4 := BitVec.ofNat 4 (p.u8 0)

/-- The first field found invalid, if any (R195). -/
def Part.validate (p : Part) : Option ConfigError :=
  match failing p.rackChecks with
  | some x => some ⟨1, 0, x⟩
  | none =>
    stationIds.findSome? fun i =>
      if p.readMask.getLsbD i.val then (failing (p.stationChecks i)).map fun x => ⟨2, i.val, x⟩
      else none

/-- The rack configuration block as latched (R194). -/
def Part.readRackConfig (p : Part) : RackConfig :=
  { mask := p.readMask, sweepInterval := p.u8 1, fixtureDebounce := p.u8 2, panelDebounce := p.u8 3,
    twoHandWindow := p.u16 4, idleSlot := p.u8 6 }

/-! ### Fixture records (03 section 3.6) -/

def Part.travelTimeout (p : Part) (code : Nat) : Nat := p.u16 (Config.fixtureRecord code + 8)
def Part.contactPins (p : Part) (code : Nat) : Nat := p.u8 (Config.fixtureRecord code + 10)
def Part.contactThreshold (p : Part) (code : Nat) : Nat := p.u16 (Config.fixtureRecord code + 12)
def Part.cycleCount (p : Part) (code : Nat) : Nat := p.u32 (Config.fixtureRecord code)
def Part.serviceLimit (p : Part) (code : Nat) : Nat := p.u32 (Config.fixtureRecord code + 4)

/-- A cycle count is due against the record's service limit (R67). -/
def Part.serviceDue (p : Part) (code : Nat) : Bool :=
  decide (p.serviceLimit code ≠ 0) && decide (p.serviceLimit code ≤ p.cycleCount code)

end Sys2Proof.Machine
end

