-- ==== Sys2Proof/Machine/Flags.lean ====
section
/-! DEFINITION. Every flag the part computes: attention causes and the ATTN# pin, the result flags of a
cell, the station lamps, and what the registers read as. -/

namespace Sys2Proof.Machine

/-! ### Attention (01 section 1.7) -/

/-- The 22 causes (R18). -/
inductive Cause where
  | cell (i : StationId) | run (i : StationId) | stop (i : StationId) | fault (i : StationId)
  | line (i : StationId) | guard | ref
deriving DecidableEq, Repr

/-- The bit of a cause in ATTN (01 section 1.3). -/
def Cause.bit : Cause → Nat
  | .cell i => 5 * i.val | .run i => 5 * i.val + 1 | .stop i => 5 * i.val + 2
  | .fault i => 5 * i.val + 3 | .line i => 5 * i.val + 4 | .guard => 20 | .ref => 21

/-- Raises a cause; a bit already set stays set (R18). -/
def Part.raise (p : Part) (c : Cause) : Part :=
  { p with attn := p.attn ||| (1#22 <<< c.bit) }

/-- Whether the ATTN# pin is asserted: some bit is set in both registers (R19). -/
def pinAsserted (attn mask : BitVec 22) : Bool := attn &&& mask != 0

/-! ### Result flags (12.5) -/

def resLimited : BitVec 16 := 0x01
def resRefSuspect : BitVec 16 := 0x02
def resServiceDue : BitVec 16 := 0x04
def resTraceFull : BitVec 16 := 0x08
def resNoise : BitVec 16 := 0x10
def resSaturated : BitVec 16 := 0x20

/-- A result flag, set or clear. -/
def flagIf (b : Bool) (flag : BitVec 16) : BitVec 16 := if b then flag else 0

/-- A completion with verdict NONE and reason OK. -/
def Result.done (flags : BitVec 16) (value aux : Int) : Result :=
  { verdict := .none, reason := .ok, flags := flags, value := value, aux := aux, attempts := 0,
    unit := 0 }

/-- A completion with verdict ERROR (R23). -/
def Result.error (r : Reason) : Result :=
  { verdict := .error, reason := r, flags := 0, value := 0, aux := 0, attempts := 0, unit := 0 }

/-- A completion with verdict FAIL. -/
def Result.fail (r : Reason) (flags : BitVec 16) (value aux : Int) : Result :=
  { verdict := .fail, reason := r, flags := flags, value := value, aux := aux, attempts := 0,
    unit := 0 }

/-- The flags a MEASURE has gathered (R162, R167). -/
def MeasureWork.flags (w : MeasureWork) : BitVec 16 :=
  flagIf w.refSuspect resRefSuspect ||| flagIf w.saturated resSaturated |||
    flagIf w.traceFull resTraceFull

/-- The flags a LISTEN has gathered (R27, R170, log 18). -/
def ListenWork.flags (w : ListenWork) : BitVec 16 :=
  flagIf w.noise resNoise

/-! ### Station lamps (R193) -/

/-- What a station's lamp shows: the first row of R193's table it meets. -/
def stationLamp (w : Walker) : Lamp :=
  match w.state with
  | .off => .off
  | .faulted => .redFlashing
  | .waiting => .amberFlashing
  | .busy => .amber
  | .idle | .stopped =>
    match w.run.state with
    | .failed => .red
    | .opened => if w.run.failed.toNat + w.run.errored.toNat > 0 then .red else .off
    | .passed => .green
    | .none | .aborted => .off

/-- Whether a lamp is lit at a rack time; flashing lamps are lit in the first half of each second. -/
def Lamp.lit (l : Lamp) (now : Time) : Bool :=
  match l with
  | .off => false
  | .red | .amber | .green => true
  | .redFlashing | .amberFlashing => decide (now.toNat % 1000 < 500)

/-- The buzzer sounds until rack time reaches its end (R192). -/
def Part.buzzing (p : Part) : Bool :=
  match p.panel.buzzerEnd with
  | none => false
  | some e => !p.reached e

/-- The lamps as station states and run records now stand (R193). -/
def Part.lampsNow (p : Part) : Vector Lamp 4 := 
  mapEach (fun x => stationLamp x.walker) p.stations

/-- The outputs that follow State at every change: the lamps (R193) and the pin (R19). -/
def Part.settle (p : Part) : Part :=
  { p with panel := { p.panel with lamps := p.lampsNow }, attnPin := pinAsserted p.attn p.attnMask }

/-! ### What a host read returns (R1, R4, R5, R7, R11, R18) -/

/-- RACKCTL as read. -/
def Part.rackctl (p : Part) : Word :=
  (if p.enabled then 1 else 0) ||| (if p.sweepRequested then 2 else 0)

/-- The station codes STNCTL reads. -/
def Part.stnctl (p : Part) : Word :=
  stationIds.foldl
    (fun w i => w ||| ((p.station i).walker.state.code.setWidth 32 <<< (4 * i.val))) 0

/-- A register as read (01 section 1.3). -/
def Part.readRegister (p : Part) : Register → Word
  | .ident => Config.ident
  | .rackctl => p.rackctl
  | .sweep => 0
  | .stnctl => p.stnctl
  | .attn => p.attn.setWidth 32
  | .attnmask => p.attnMask.setWidth 32
  | .racktime => p.rackTime
  | .guardlog => p.guardLog.word

/-- The register at a word index of the window, if one is there. -/
def registerAt (index : BitVec 14) : Option Register :=
  let n := index.toNat - Config.firstRegister
  if index.toNat < Config.firstRegister then none
  else if n = 0 then some .ident else if n = 1 then some .rackctl else if n = 2 then some .sweep
  else if n = 3 then some .stnctl else if n = 4 then some .attn else if n = 5 then some .attnmask
  else if n = 6 then some .racktime else some .guardlog

/-- What a host read of a word of the window returns, while no reset lasts. -/
def Part.hostRead (p : Part) (index : BitVec 14) : Word :=
  match registerAt index with
  | some r => p.readRegister r
  | none => p.word (4 * index.toNat)

end Sys2Proof.Machine
end

