-- ==== Sys2Proof/Machine/Judgement.lean ====
section
/-! DEFINITION. Judgement arithmetic (08): from raw data to values, windows and classes. -/

namespace Sys2Proof.Machine

/-! ### Stage 1: the count C -/

/-- Stage 1 for ANALOG and CONTACT: the mean in sixteenths, rounded half up, less the offset (R151). -/
def analogCount (sum samples : Nat) (offset16 : Int) : Int :=
  ((16 * sum + samples / 2) / samples : Nat) - offset16

/-- C of a FREQ, in mHz (R153); a measurement of 0 ticks has no stated C (log 13). -/
def freqCount (periods ticks : Nat) : Int :=
  if ticks = 0 then Config.zeroTickCount true periods 0
  else ((2 * periods * 10000000000 + ticks) / (2 * ticks) : Nat)

/-- C of a DUTY, in ‰ (R153); a measurement of 0 ticks has no stated C (log 13). -/
def dutyCount (highTicks ticks : Nat) : Int :=
  if ticks = 0 then Config.zeroTickCount false highTicks 0
  else ((2 * highTicks * 1000 + ticks) / (2 * ticks) : Nat)

/-- C of a LISTEN: the field read from the answer's bytes (R154). -/
def fieldCount (f : Field) (data : List Byte) : Int :=
  let a := (data.getD f.offset 0).toNat
  let b := (data.getD (f.offset + 1) 0).toNat
  if f.wide then
    let v := if f.highFirst then 256 * a + b else a + 256 * b
    if f.signed then signed 16 v else v
  else if f.signed then signed 8 a else a

/-! ### Stage 2: the value V -/

/-- V before saturation (R155). -/
def scaled (c : Calibration) (count : Int) : Int := roundAway (count * c.gain) 65536 + c.base

/-- V and whether it was saturated to the scale limit (R156). -/
def scaledValue (c : Calibration) (count : Int) : Int × Bool :=
  let v := scaled c count
  (saturate (-Config.scaleLimit) Config.scaleLimit v, !inScale v)

/-! ### Stage 3: the window and the class -/

/-- The bounds of a window; a TRACK window is built from the channel's present value (R157, R158). -/
def Window.bounds (w : Window) (image : Stimulus) : Int × Int :=
  match w with
  | .abs low high => (low, high)
  | .track source ratio bias tolerance =>
    let e := saturate (-Config.scaleLimit) Config.scaleLimit
      (roundAway (image.value source * ratio) 1024 + bias)
    (saturate (-Config.scaleLimit) Config.scaleLimit (e - tolerance),
     saturate (-Config.scaleLimit) Config.scaleLimit (e + tolerance))

/-- The class of a value against its bounds, in R159's order of precedence. -/
def classify (value lower upper : Int) (saturated : Bool) : AttemptClass :=
  if saturated then .outOfScale
  else if value < lower then .below
  else if upper < value then .above
  else .inWindow

/-- The bound an outcome is judged by (R159). -/
def judgedBound (c : AttemptClass) (lower upper : Int) : Int :=
  match c with
  | .below => lower
  | .inWindow | .above | .outOfScale | .noSignal => upper

/-- The evaluation of a count (R150). -/
def evaluate (c : Calibration) (w : Window) (image : Stimulus) (count : Int) : Attempt :=
  let (v, sat) := scaledValue c count
  let (low, high) := w.bounds image
  let cls := classify v low high sat
  { value := v, cls := cls, lower := low, upper := high, judged := judgedBound cls low high,
    saturated := sat }

/-- The evaluation of a meter that ended NO_SIGNAL: V = 0, no scaling (R153). -/
def evaluateNoSignal (w : Window) (image : Stimulus) : Attempt :=
  let (low, high) := w.bounds image
  { value := 0, cls := .noSignal, lower := low, upper := high,
    judged := judgedBound .noSignal low high, saturated := false }

/-! ### Contact resistance (R70, R160) -/

/-- A pin's entry and whether it sets SATURATED. -/
def pinResistance (c : Calibration) (sum : Nat) : Int × Bool :=
  let (v, sat) := scaledValue c (analogCount sum 4 c.offset16)
  (if v < 0 then 0 else v, sat)

/-! ### Reasons from the last miss (R166, R171) -/

/-- The reason of a failing MEASURE whose last miss has a class; IN is never a miss. -/
def AttemptClass.reason : AttemptClass → Reason
  | .below => .belowLimit
  | .above => .aboveLimit
  | .outOfScale => .outOfScale
  | .noSignal => .noSignal
  | .inWindow => .timeout

/-- The reason of a failing MEASURE (R166). -/
def measureReason : Option Miss → Reason
  | some (.attempt c) => c.reason
  | some (.frame _) => .lineError
  | none => .timeout

/-- The reason of a failing LISTEN; `answers` is how many completions came after the take (R171). -/
def listenReason (miss : Option Miss) (answers : Nat) : Reason :=
  match miss with
  | some (.attempt c) => c.reason
  | some (.frame .noResponse) => .noResponse
  | some (.frame _) => .lineError
  | none => if answers = 0 then .noResponse else .timeout

end Sys2Proof.Machine
end

