-- ==== Sys2Proof/Machine/Publish.lean ====
section
/-! DEFINITION. Publication: the one operation that writes the header words an event has changed (R20, R52, R73,
R87, R113, log 15), and the closing of an event. -/

namespace Sys2Proof.Machine

/-- Writes header words at a base offset. -/
def Memory.writeWords (m : Memory) (base : Nat) (ws : List (Nat × Word)) : Memory :=
  ws.foldl (fun m w => m.writeLE (base + w.1) 4 w.2.toNat) m

/-- Publishes a station's changes: the words an event has changed, and those marked because an item in them
changed and came back or is published anew; a station that stays OFF writes nothing (R20, R52, R73, R87, R113,
log 15). -/
def Memory.publish (m : Memory) (i : StationId) (old new : Station) (marked : BitVec 64) : Memory :=
  if old.walker.state = .off ∧ new.walker.state = .off then m
  else m.writeWords (Config.page i) (dueWords old.header new.header marked)

/-- Publishes a whole header, as an enable does (R48, R52, R74, R88, R114, R145). -/
def Part.publishAll (p : Part) (i : StationId) : Part :=
  { p with mem := p.mem.writeWords (Config.page i) (p.station i).header }

/-- The header words of a station an event has marked. -/
def Part.marked (old new : Part) (i : StationId) : BitVec 64 := new.touched[i] &&& ~~~old.touched[i]

/-- Closes an event: publishes what it changed in every station's header, drops its marks, then settles the
outputs. -/
def Part.commit (old new : Part) : Part :=
  Part.settle
    { new with
      mem := stationIds.foldl
        (fun m i => m.publish i (old.station i) (new.station i) (Part.marked old new i)) new.mem
      touched := old.touched }

/-- One event of a block a reset stops: nothing of it happens while a reset lasts (R199); otherwise the event is
taken and committed. -/
def Part.take (p : Part) (f : Part → Part) : Part :=
  if p.inReset.isSome then p else Part.commit p (f p)

/-- What a command answers. -/
abbrev Answer := Host.Outcome State Fault Refusal

/-- A command that is one event of the part; the commands that wait stand (R199). -/
def State.event (s : State) (f : Part → Part) : Answer := .next { s with part := s.part.take f }

/-- A command that is one event of the debouncers of the fixture inputs, which a reset does not stop (R52, R54,
log 3). -/
def State.always (s : State) (f : Part → Part) : Answer :=
  .next { s with part := Part.commit s.part (f s.part) }

end Sys2Proof.Machine
end

