-- ==== Sys2Proof/Machine/Stimulus.lean ====
section
/-! DEFINITION. The stimulus unit (05): counts, SET, ramps, park and halt, over one station's channels. -/

namespace Sys2Proof.Machine

/-- Round half up of naturals. -/
def roundNat (num den : Nat) : Nat := (2 * num + den) / (2 * den)

/-! ### Pulse counts (R90, R91) -/

/-- The ticks of one second's thousand: 10^10, so that 10^10 / mHz is a period in ticks (R90). -/
def tickScale : Nat := 10000000000

/-- The period count of a frequency in mHz, before the clamp; 0 for a stopped generator. -/
def rawPeriod (mHz : Nat) : Nat := if mHz = 0 then 0 else roundNat tickScale mHz

/-- The counts a setting gives (R90, R91); a frequency of 0 gives the counts of a stop. -/
def countsOf (mHz duty : Nat) (idle : Bool) : Counts :=
  if mHz = 0 then ⟨0, 0, idle⟩
  else
    let p := clampNat 500 40000000 (rawPeriod mHz)
    ⟨p, clampNat 1 (p - 1) (roundNat (p * duty) 1000), idle⟩

/-- The frequency a period count puts out (R90), 0 while stopped. -/
def realisedFrequency (c : Counts) : Nat := if c.period = 0 then 0 else roundNat tickScale c.period

/-- The duty counts put out (R94), 0 while stopped. -/
def realisedDuty (c : Counts) : Nat := if c.period = 0 then 0 else roundNat (c.high * 1000) c.period

/-- A frequency as clamped, and whether it was replaced (R90). -/
def clampFrequency (mHz : Nat) : Nat × Bool :=
  if mHz = 0 then (0, false)
  else if rawPeriod mHz < 500 then (20000000, true)
  else if 40000000 < rawPeriod mHz then (250, true)
  else (mHz, false)

/-- A resistance as clamped, and whether it was replaced; 65535 is OPEN (R95). -/
def clampOhms (v : Nat) : Nat × Bool :=
  if v ≤ 4000 then (v, false) else if v = 65535 then (65535, false) else (4000, true)

/-- The output level of a generator in a tick of its period, the tick at which the period starts being 0: the
level opposite to the idle level for the first `high` ticks, then the idle level; the idle level throughout while
stopped (R92). -/
def Counts.level (c : Counts) (tick : Nat) : Bool :=
  if c.period ≠ 0 ∧ tick < c.high then !c.idle else c.idle

/-- The level of a generator's output in a tick of its running period (R92). -/
def PulseGen.output (g : PulseGen) (tick : Nat) : Bool := g.running.level tick

/-! ### Changes of a generator (R93) -/

/-- A change of present value, duty or idle level: a running generator stores pending counts (or a stop),
a stopped one starts, or moves its idle level, at once. -/
def PulseGen.change (g : PulseGen) (present duty : Nat) (idle : Bool) : PulseGen :=
  let c := countsOf present duty idle
  let g' := { g with present := present, duty := duty, idle := idle }
  if g.running.period = 0 then { g' with running := c, pending := none }
  else if c = g.running then { g' with pending := none }
  else { g' with pending := some c }

/-- A period boundary loads the pending counts or the pending stop (R93). -/
def PulseGen.boundary (g : PulseGen) : PulseGen :=
  if g.running.period = 0 then g
  else
    match g.pending with
    | some c => { g with running := c, pending := none }
    | none => g

/-! ### SET of a channel (R97, R98, R99) -/

/-- A PG SET at its take: the generator, whether it completes at once, and the target as clamped. -/
def PulseGen.set (g : PulseGen) (now : Time) (mHz duty : Nat) (idle : Bool) (rate : Nat)
    (start : Option Nat) : PulseGen × Bool × SetWork :=
  let (target, lf) := clampFrequency mHz
  let duty' := clampNat 1 999 duty
  let start' := start.map clampFrequency
  let ls := match start' with
    | some (_, l) => l
    | none => false
  let limited := lf || decide (duty' ≠ duty) || ls
  let begins := match start' with
    | some (v, _) => v
    | none => g.present
  let g1 := { g with ramp := none, target := target, limited := limited }
  let g2 := if start'.isSome then g1.change begins duty' idle else g1
  let work : SetWork := ⟨.pg 0, target, duty', 0, limited⟩
  if rate = 0 ∨ begins = target then (g2.change target duty' idle, true, work)
  else ({ g2 with ramp := some ⟨rate, begins, now, 0, duty', idle⟩ }, false, work)

/-- An LV SET at its take; a jump from or to OPEN is never a ramp (R97). -/
def LevelOut.set (v : LevelOut) (now : Time) (ohms rate : Nat) (start : Option Nat) :
    LevelOut × Bool × SetWork :=
  let (target, lf) := clampOhms ohms
  let start' := start.map clampOhms
  let ls := match start' with
    | some (_, l) => l
    | none => false
  let limited := lf || ls
  let begins := match start' with
    | some (s, _) => s
    | none => v.present
  let v1 := { v with ramp := none, target := target, limited := limited }
  let work : SetWork := ⟨.lv 0, target, 0, 0, limited⟩
  if rate = 0 ∨ begins = target ∨ target = 65535 ∨ begins = 65535 then
    ({ v1 with present := target }, true, work)
  else ({ v1 with present := begins, ramp := some ⟨rate, begins, now, 0, 0, false⟩ }, false, work)

/-- The channel between the old setting and a SET's own: the old ramp cancelled (R98), and the present value at
FROM's start value, from which a jump goes on to the target in the same event (R97). -/
def Stimulus.takeOff (t : Stimulus) (c : RampChannel) (start : Option Nat) : Stimulus :=
  match c with
  | .pg k =>
    let v := start.elim t.pg[k].present fun v => (clampFrequency v).1
    { t with pg := put t.pg k { t.pg[k] with ramp := none, present := v } }
  | .lv k =>
    let v := start.elim t.lv[k].present fun v => (clampOhms v).1
    { t with lv := put t.lv k { t.lv[k] with ramp := none, present := v } }

/-! ### Ramp steps (R96) -/

/-- One step from a present value towards a target by a rate, landing on the target. -/
def rampTowards (present target rate : Nat) : Nat :=
  if present + rate < target then present + rate
  else if target + rate < present then present - rate
  else target

/-- A step of a generator's ramp, and whether it arrives. -/
def PulseGen.step (g : PulseGen) (r : Ramp) : PulseGen × Bool :=
  let v := rampTowards g.present g.target r.rate
  let g' := g.change v r.duty r.idle
  if v = g.target then ({ g' with ramp := none }, true)
  else ({ g' with ramp := some { r with steps := r.steps + 1 } }, false)

/-- A step of a level output's ramp, and whether it arrives. -/
def LevelOut.step (o : LevelOut) (r : Ramp) : LevelOut × Bool :=
  let v := rampTowards o.present o.target r.rate
  if v = o.target then ({ o with present := v, ramp := none }, true)
  else ({ o with present := v, ramp := some { r with steps := r.steps + 1 } }, false)

/-- The ramp of a channel, if one moves it. -/
def Stimulus.ramp (t : Stimulus) : RampChannel → Option Ramp
  | .pg k => t.pg[k].ramp
  | .lv k => t.lv[k].ramp

/-- The present value of a ramping channel. -/
def Stimulus.present (t : Stimulus) : RampChannel → Nat
  | .pg k => t.pg[k].present
  | .lv k => t.lv[k].present

/-- One step of a channel's ramp (R96), and whether it arrives. -/
def Stimulus.stepRamp (t : Stimulus) (c : RampChannel) (r : Ramp) : Stimulus × Bool :=
  match c with
  | .pg k =>
    let (g, a) := t.pg[k].step r
    ({ t with pg := put t.pg k g }, a)
  | .lv k =>
    let (o, a) := t.lv[k].step r
    ({ t with lv := put t.lv k o }, a)

/-- A step of a ramp is due: 10 ms for each step made, and 10 more (R96). -/
def Part.rampDue (p : Part) (r : Ramp) : Bool := p.passed r.start (10 * (r.steps + 1))

/-! ### Halt (R103) -/

/-- A generator's ramp stops where it is, which becomes its target; its pending counts stand. -/
def PulseGen.halt (g : PulseGen) : PulseGen :=
  if g.ramp.isSome then { g with target := g.present, ramp := none } else g

/-- A level output's ramp stops where it is, which becomes its target. -/
def LevelOut.halt (v : LevelOut) : LevelOut :=
  if v.ramp.isSome then { v with target := v.present, ramp := none } else v

/-- The halt notice at the stimulus unit. -/
def Stimulus.halt (t : Stimulus) : Stimulus :=
  { t with pg := mapEach PulseGen.halt t.pg, lv := mapEach LevelOut.halt t.lv }

/-- One channel's ramp stops as at a halt (R188). -/
def Stimulus.haltChannel (t : Stimulus) : RampChannel → Stimulus
  | .pg k => { t with pg := put t.pg k t.pg[k].halt }
  | .lv k => { t with lv := put t.lv k t.lv[k].halt }

/-! ### What a SET leaves (R94, R95, R100, R101) -/

/-- The result of a completed PG or LV SET: its value describes the target. -/
def SetWork.result (w : SetWork) : Result :=
  match w.channel with
  | .pg _ =>
    let c := countsOf w.target w.duty false
    { Result.done (flagIf w.limited resLimited) (realisedFrequency c) (realisedDuty c) with
      attempts := w.steps }
  | .lv _ => { Result.done (flagIf w.limited resLimited) w.target 0 with attempts := w.steps }

/-- The line states after a DL SET: masked lines take their bits, the others stand (R100). -/
def dlAfter (lines mask bits : BitVec 16) : BitVec 16 := (lines &&& ~~~mask) ||| (bits &&& mask)

end Sys2Proof.Machine
end

