-- ==== Sys2Proof/Machine/Line.lean ====
section
/-! DEFINITION. The line controller (06): characters, frames, the due list, loading and clearing the
schedule, and what a frame's end leaves in the reception table. -/

namespace Sys2Proof.Machine

/-! ### Bit timing and characters (06 section 6.1) -/

/-- Bit times of a character (R107). -/
def characterBits (stopBits : Nat) : Nat := 10 + stopBits

/-- Bit times of a SEND frame of a length (R109). -/
def sendFrameBits (length stopBits : Nat) : Nat := 14 + (length + 2) * characterBits stopBits

/-- Bit times of a FETCH frame's own part (R109). -/
def fetchHeadBits (stopBits : Nat) : Nat := 14 + characterBits stopBits

/-- Bit times after which a response window closes (R111). -/
def windowBits (length allowance : Nat) : Nat := (length + 1) * 12 + allowance

/-- The majority of three samples: set means recessive, a 1 (R108). -/
def majority (s : BitVec 3) : Bool :=
  decide (2 ≤ (s.getLsbD 0).toNat + (s.getLsbD 1).toNat + (s.getLsbD 2).toNat)

/-- The three samples of a bit disagree (R108). -/
def disagrees (s : BitVec 3) : Bool := decide (s ≠ 0) && decide (s ≠ 7)

/-- The byte a character's data bits read, bit 0 first (R107, R108). -/
def samplesByte (c : CharSamples) : Byte :=
  (List.finRange 8).foldl
    (fun b k => b ||| ((if majority c.data[k] then 1 else 0 : Byte) <<< k.val)) 0

/-- Some bit of the character was read with disagreeing samples. -/
def samplesNoisy (c : CharSamples) : Bool :=
  disagrees c.start || disagrees c.mark || disagrees c.stop || c.data.toList.any disagrees

/-! ### Frames (06 section 6.2) -/

/-- The even parity bit of an address (R109): 1 when it holds an odd number of ones. -/
def addressParity (address : Nat) : Nat :=
  ((List.range 7).map fun k => (address / 2 ^ k) % 2).foldl (· + ·) 0 % 2

/-- The header character of an address with its parity bit (R109). -/
def headerByte (address : Nat) : Byte := BitVec.ofNat 8 (address + 128 * addressParity address)

/-- The sum of bytes modulo 256. -/
def byteSum (bs : List Byte) : Byte := bs.foldl (· + ·) 0

/-- The check character: header + data + check ≡ 0 (mod 256) (R109). -/
def checkByte (header : Byte) (data : List Byte) : Byte := 0 - (header + byteSum data)

/-- A bound value: present value × ratio / 1024 rounded away, saturated to the field (R121). -/
def boundValue (c : Channel) (present ratio : Int) (width : Nat) : Int :=
  let v := roundAway (present * ratio) 1024
  match c with
  | .mv _ => if width = 1 then saturate (-128) 127 v else saturate (-32768) 32767 v
  | .pg _ | .lv _ => if width = 1 then saturate 0 255 v else saturate 0 65535 v

/-- The bytes of a bound field in its order (R121). -/
def boundBytes (v : Int) (width order : Nat) : List Byte :=
  let w := (BitVec.ofInt 16 v).toNat
  if width = 1 then [n8 w]
  else if order = 0 then [n8 w, n8 (w / 256)]
  else [n8 (w / 256), n8 w]

/-- Replaces bytes of a list from a position on. -/
def overlay (data : List Byte) (position : Nat) : List Byte → List Byte
  | [] => data
  | b :: bs => overlay (data.set position b) (position + 1) bs

/-- The data bytes of a SEND frame, with the bound field filled from the stimulus image (R109, R121). -/
def Entry.dataBytes (e : Entry) (image : Stimulus) : List Byte :=
  let data := e.payload.take e.length
  if e.bound = 0 then data
  else
    match Channel.ofCode e.source with
    | none => data
    | some c =>
      overlay data e.position (boundBytes (boundValue c (image.value c) e.ratio e.width) e.width e.order)

/-- The frame an entry starts. -/
def Entry.frame (e : Entry) (k : Fin 16) (image : Stimulus) : Frame :=
  { entry := k, fetch := decide (e.direction = 1), length := e.length, address := e.address,
    bytes := if e.direction = 1 then [] else e.dataBytes image,
    window := false, received := [], decided := none, noise := false }

/-- The characters a frame sends, each with its mark bit (R109): a FETCH sends its header only. -/
def Frame.characters (f : Frame) : List (Byte × Bool) :=
  let h := headerByte f.address
  (h, true) ::
    (if f.fetch then [] else f.bytes.map (fun b => (b, false)) ++ [(checkByte h f.bytes, false)])

/-- The levels of a character on the wire, bit time by bit time, set for recessive (R107): a dominant start bit,
the data bits with bit 0 first, the mark bit, one or two recessive stop bits. -/
def characterLevels (stopBits : Nat) (c : Byte × Bool) : List Bool :=
  false :: (List.range 8).map (fun k => c.1.getLsbD k) ++ c.2 :: List.replicate stopBits true

/-- The levels a frame drives onto the wire, bit time by bit time (R109): the break of 13 dominant bit times, the
recessive delimiter, then its characters. -/
def Frame.levels (f : Frame) (stopBits : Nat) : List Bool :=
  List.replicate 13 false ++ true :: f.characters.flatMap (characterLevels stopBits)

/-- What a received character does to a frame whose window is open and whose result is undecided (R108,
R111, log 23): the frame after it, and the result if it ends the frame. A start bit whose majority reads recessive
is a false start: the frame is marked NOISE and nothing is received. -/
def Frame.receive (f : Frame) (c : CharSamples) : Frame × Option FrameResult :=
  let f1 := { f with noise := f.noise || samplesNoisy c || majority c.start }
  if majority c.start then (f1, none)
  else if majority c.mark then ({ f1 with decided := some .mark }, none)
  else if !majority c.stop then ({ f1 with decided := some .framing }, none)
  else
    let got := f.received ++ [samplesByte c]
    let f2 := { f1 with received := got }
    if got.length < f.length + 1 then (f2, none)
    else if headerByte f.address + byteSum got = 0 then (f2, some .ok)
    else (f2, some .check)

/-! ### The due list (R119, R120) -/

/-- A key's distance back from the present. -/
def keyAge (now key : Time) : Nat := (now - key).toNat

/-- Inserts an instance: oldest key first, equal keys in order of entry index (R120). -/
def insertDue (now : Time) (e : Fin 16) (key : Time) : List (Fin 16 × Time) → List (Fin 16 × Time)
  | [] => [(e, key)]
  | (f, k) :: rest =>
    if keyAge now k < keyAge now key ∨ (keyAge now k = keyAge now key ∧ e < f) then
      (e, key) :: (f, k) :: rest
    else (f, k) :: insertDue now e key rest

/-- An entry has an instance in the due list. -/
def Line.isDue (l : Line) (e : Fin 16) : Bool := l.due.any fun d => decide (d.1 = e)

/-- Changes one reception entry. -/
def Line.receive (l : Line) (e : Fin 16) (f : Reception → Reception) : Line :=
  { l with reception := put l.reception e (f l.reception[e]) }

/-! ### Writing the reception table (06 section 6.5, log 14) -/

/-- Writes the word of a reception entry that holds length, last error and NOISE. -/
def Part.writeReceptionState (p : Part) (i : StationId) (e : Fin 16) : Part :=
  let r := (p.station i).lc.reception[e]
  p.poke32 (Config.receptionEntry i e + 8) (word4 (n8 r.length) r.lastError.code (bit r.noise) 0).toNat

/-- Writes the good and error counts. -/
def Part.writeReceptionCounts (p : Part) (i : StationId) (e : Fin 16) : Part :=
  let r := (p.station i).lc.reception[e]
  p.poke32 (Config.receptionEntry i e + 16) (word2 (n16 r.good) (n16 r.bad)).toNat

/-- Writes the data, the time stamp, the overrun count, the sequence. -/
def Part.writeReceptionData (p : Part) (i : StationId) (e : Fin 16) : Part :=
  { p with
    mem := p.mem.writeBytes (Config.receptionEntry i e) (p.station i).lc.reception[e].data }

def Part.writeReceptionTime (p : Part) (i : StationId) (e : Fin 16) : Part :=
  p.poke32 (Config.receptionEntry i e + 12) (p.station i).lc.reception[e].time.toNat

def Part.writeReceptionOverrun (p : Part) (i : StationId) (e : Fin 16) : Part :=
  p.poke32 (Config.receptionEntry i e + 20) (word2 (n16 (p.station i).lc.reception[e].overrun) 0).toNat

def Part.writeReceptionSequence (p : Part) (i : StationId) (e : Fin 16) : Part :=
  p.poke32 (Config.receptionEntry i e + 24) (word2 (p.station i).lc.reception[e].sequence 0).toNat

/-- Counts an overrun of an entry (R119, R127). -/
def Part.overrun (p : Part) (i : StationId) (e : Fin 16) : Part :=
  (p.setLc i fun l => l.receive e fun r => { r with overrun := countUp 65535 r.overrun })
    |>.writeReceptionOverrun i e

/-- Puts an entry into the due list with a key, or counts an overrun if it is there (R119, R127). -/
def Part.joinDue (p : Part) (i : StationId) (e : Fin 16) (key : Time) : Part :=
  if (p.station i).lc.isDue e then p.overrun i e
  else p.setLc i fun l => { l with due := insertDue p.rackTime e key l.due }

/-- An enabled entry of the loaded schedule whose next-due time has been reached. -/
def Part.entryDue (p : Part) (i : StationId) (e : Fin 16) : Bool :=
  let l := (p.station i).lc
  match l.schedule with
  | none => false
  | some t => t[e].enabled && p.reached l.nextDue[e]

/-- An entry falls due: it joins the due list or counts an overrun, and its next-due time advances. -/
def Part.fallDue (p : Part) (i : StationId) (e : Fin 16) : Part :=
  let l := (p.station i).lc
  match l.schedule with
  | none => p
  | some t =>
    (p.joinDue i e l.nextDue[e]).setLc i fun l' =>
      { l' with nextDue := put l'.nextDue e (l.nextDue[e] + BitVec.ofNat 32 t[e].period) }

/-- Every entry whose next-due time has been reached falls due, in index order. -/
def Part.fallDueAll (p : Part) (i : StationId) : Part :=
  entryIds.foldl (fun q e => if q.entryDue i e then q.fallDue i e else q) p

/-! ### Frames take the wire (R120, R121) -/

/-- A SEND ONCE waiting for an instance of this entry finds that instance's frame started (R127). -/
def Walker.onceStarts (w : Walker) (e : Fin 16) : Walker :=
  match w.work with
  | .sendOnce e' false => if e' = e then w.setWork (.sendOnce e' true) else w
  | _ => w

/-- If the line is RUNNING, the wire free and the due list not empty, the head starts its frame. -/
def Part.startFrame (p : Part) (i : StationId) : Part :=
  let l := (p.station i).lc
  match l.state, l.frame, l.gap, l.due, l.schedule with
  | .running, none, false, d :: rest, some t =>
    (p.setLc i fun l' =>
      { l' with due := rest, frame := some (t[d.1].frame d.1 (p.station i).st) })
      |>.setWalker i (·.onceStarts d.1)
  | _, _, _, _, _ => p

/-! ### Loading and clearing the schedule (R125, R126) -/

/-- A frame is in progress on the wire. -/
def Line.busy (l : Line) : Bool := l.frame.isSome

/-- The load of a schedule copy (R125, steps 1 to 4). -/
def Part.loadSchedule (p : Part) (i : StationId) (t : Vector Entry 16) : Part :=
  let p1 := p.setLc i fun l =>
    { l with due := [], schedule := some t, stuckFlag := false,
             reception := Vector.replicate 16 .zero,
             nextDue := mapEach (fun e => p.rackTime + BitVec.ofNat 32 e.offset) t,
             pendingReload := none }
  let p2 := { p1 with mem := p1.mem.zero (Config.receptionEntry i 0) 512 }
  (p2.fallDueAll i).setLc i fun l => { l with state := .syncing, idleCount := 0 }

/-- Empties the due list and clears the schedule. -/
def Line.clear (l : Line) : Line := { l with due := [], schedule := none }

/-- The supply is lost (R117): the frame is dropped without a result and the line is DORMANT. -/
def Line.supplyLoss (l : Line) : Line :=
  { l.clear with frame := none, gap := false, pendingReload := none, pendingStop := false,
                 idleCount := 0, state := .dormant }

/-! ### The end of a frame (R112, R122, R123) -/

/-- What a frame's end leaves in its reception entry. -/
def Reception.complete (r : Reception) (f : Frame) (result : FrameResult) (now : Time) : Reception :=
  let good := decide (result = .ok)
  let r1 :=
    if good then
      if f.fetch then
        { r with data := (f.received.take f.length) ++ List.replicate (8 - f.length) 0,
                 length := f.length, time := now, good := countUp 65535 r.good }
      else { r with time := now, good := countUp 65535 r.good }
    else { r with bad := countUp 65535 r.bad }
  { r1 with lastError := result, noise := f.noise,
            sequence := if f.fetch then r1.sequence + 1 else r1.sequence }

/-- Updates the reception entry, its words in R122's and R123's order, and the frame counters of the
header. -/
def Part.recordFrame (p : Part) (i : StationId) (f : Frame) (result : FrameResult) : Part :=
  let p1 := p.setLc i fun l =>
    { l.receive f.entry (fun r => r.complete f result p.rackTime) with
      framesDone := l.framesDone + 1,
      framesBad := if result = .ok then l.framesBad else l.framesBad + 1,
      lastEntry := f.entry, lastResult := result }
  let p2 := if result = .ok then
      (if f.fetch then p1.writeReceptionData i f.entry else p1).writeReceptionTime i f.entry
    else p1
  let p3 := (p2.writeReceptionCounts i f.entry).writeReceptionState i f.entry
  if f.fetch then p3.writeReceptionSequence i f.entry else p3

/-- A frame leaves the wire with a result: its records move, and the wire is free four bit times later. -/
def Part.endFrameRecord (p : Part) (i : StationId) (f : Frame) (result : FrameResult) : Part :=
  (p.recordFrame i f result).setLc i fun l => { l with frame := none, gap := true }

/-- What waited for the frame's end at the line is done: a pending stop makes the line QUIET, a pending
reload is loaded (R125, R126, R128). -/
def Part.afterFrame (p : Part) (i : StationId) : Part :=
  let l := (p.station i).lc
  if l.pendingStop then p.setLc i fun l' => { l' with pendingStop := false, state := .quiet }
  else
    match l.pendingReload with
    | some t => p.loadSchedule i t
    | none => p

end Sys2Proof.Machine
end

