-- ==== Sys2Proof/Machine/Supply.lean ====
section
/-! DEFINITION. The supply channel (04): ramps, the monitor, and leaving the live states. -/

namespace Sys2Proof.Machine

/-- Duration of a ramp from v0 to vs in ms, rounded half up (R78). -/
def rampMillis (rampTime v0 vs : Nat) : Nat :=
  roundNat (rampTime * (if v0 ≤ vs then vs - v0 else v0 - vs)) vs

/-- The commanded output after k of T ms of a ramp, rounded half up (R78). -/
def rampOutput (v0 vs k t : Nat) : Nat :=
  (roundHalfUp ((v0 : Int) * t + ((vs : Int) - v0) * k) t).toNat

/-- Takes the four numbers of a POWER ON (R76) and starts its ramp, or stands at the setpoint at once
(R77). -/
def Supply.powerOn (u : Supply) (n : PowerNumbers) (now : Time) : Supply :=
  let v0 := if u.live then u.commanded else 0
  let t := rampMillis n.rampTime v0 n.setpoint
  { u with setpoint := n.setpoint, limit := n.limit, rampTime := n.rampTime, tripDelay := n.tripDelay,
           rampDuration := t, rampFrom := v0, rampElapsed := 0, rampStart := now,
           state := if t = 0 then .on else .ramping,
           commanded := if t = 0 then n.setpoint else v0 }

/-- A step of a ramp is due: one for each ms after the take (R78). -/
def Part.supplyStepDue (p : Part) (u : Supply) : Bool := p.passed u.rampStart (u.rampElapsed + 1)

/-- One ms of a ramp; at the last the supply is ON at the setpoint (R78). -/
def Supply.rampStep (u : Supply) : Supply :=
  let k := u.rampElapsed + 1
  if k < u.rampDuration then
    { u with rampElapsed := k, commanded := rampOutput u.rampFrom u.setpoint k u.rampDuration }
  else { u with rampElapsed := k, commanded := u.setpoint, state := .on }

/-- The mean of 8 samples, rounded half up (R80). -/
def meanOfEight (vs : List Nat) : Nat := roundNat (vs.foldl (· + ·) 0) 8

/-- A monitor sample: history, averages, in-limit and trip count (R80, R81); `tripDue` marks that this
sample has reached the trip delay (log 20). -/
def Supply.sample (u : Supply) (mA mV : Nat) (inLimit : Bool) : Supply :=
  let h := ((mA, mV) :: u.history).take 8
  let n := if inLimit then countUp 250 u.tripCount else 0
  { u with history := h, current := meanOfEight (h.map Prod.fst),
           voltage := meanOfEight (h.map Prod.snd), inLimit := inLimit, tripCount := n,
           tripDue := inLimit && decide (u.tripDelay ≤ n) }

/-- The supply at an entry to OFF or TRIPPED (R80, R84 step 1); its parameters keep their values. -/
def Supply.cut (u : Supply) (dest : SupplyState) : Supply :=
  { u with state := dest, commanded := 0, history := Supply.noHistory, current := 0, voltage := 0,
           inLimit := false, tripCount := 0, tripDue := false }

/-- An entry to OFF or TRIPPED with its propagation (R84 steps 1 to 3): the supply is cut, the stimulus
parks, the line is DORMANT. -/
def Part.supplyLeave (p : Part) (i : StationId) (dest : SupplyState) : Part :=
  p.modify i fun x => { x with ps := x.ps.cut dest, st := .park, lc := x.lc.supplyLoss }

/-- The supply goes OFF if it is not OFF (R36 step 1, R74, R79). -/
def Part.supplyOff (p : Part) (i : StationId) : Part :=
  if (p.station i).ps.state = .off then p else p.supplyLeave i .off

/-- A cut delivered by the fixture controller: a live supply goes OFF, any other stays (R83). -/
def Part.supplyCut (p : Part) (i : StationId) : Part :=
  if (p.station i).ps.live then p.supplyLeave i .off else p

/-- The halt notice at the supply (R85): a ramp stops and its present output becomes the setpoint. -/
def Supply.halt (u : Supply) : Supply :=
  match u.state with
  | .ramping => { u with state := .on, setpoint := u.commanded }
  | .off | .on | .tripped => u

/-- The line leaves DORMANT when the supply leaves OFF (R77, R113). -/
def Line.supplyArrives (l : Line) : Line :=
  match l.state with
  | .dormant => { l with state := .quiet }
  | .quiet | .syncing | .running => l

end Sys2Proof.Machine
end

