-- ==== Sys2Proof/Machine/Acquisition.lean ====
section
/-! DEFINITION. The acquisition unit (07): the converter's arbiter, the reference check, the input
monitors, the meters and the lamp scanner. -/

namespace Sys2Proof.Machine

/-! ### The converter (07 sections 7.1 to 7.4) -/

/-- The code of a conversion: the voltage in mV with any fraction discarded, within 0 to 4095 (R129). -/
def conversionCode (microvolts : Int) : Nat :=
  if microvolts ≤ 0 then 0 else if 4095000 ≤ microvolts then 4095 else (microvolts / 1000).toNat

/-- Converter clocks of one sample by its sample-hold code (R129). -/
def sampleClocks (hold : Nat) : Nat :=
  (if hold = 0 then 2 else if hold = 1 then 4 else if hold = 2 then 8 else 12) + 13

/-- The stations in the order the arbiter counts from the last granted (R132). -/
def grantOrder (last : StationId) : List StationId := [last + 1, last + 2, last + 3, last]

/-- The grant at the end of a sample or at a placing: the next reference sample while a check runs, else
the first station in order with a request, else idle (R132, R136). -/
def Converter.grant (c : Converter) : Converter :=
  match c.refCheck with
  | some r => { c with sample := some ⟨.reference (decide (r.done < 16)), 3, true⟩ }
  | none =>
    match (grantOrder c.lastGranted).find? fun i => c.queue[i].isSome with
    | none => { c with sample := none }
    | some i =>
      match c.queue[i] with
      | none => c
      | some q => { c with lastGranted := i, sample := some ⟨.request i, q.hold, true⟩ }

/-- A request is placed; an idle converter grants it at once (R131). -/
def Converter.place (c : Converter) (i : StationId) (q : Request) : Converter :=
  let c' := { c with queue := put c.queue i (some q) }
  if c.sample.isSome then c' else c'.grant

/-- The code of a sample of the station's request is to be discarded (R134). -/
def Sample.discardFor (x : Sample) (i : StationId) : Sample :=
  if x.input = .request i then { x with live := false } else x

/-- A withdrawal takes the station's request off the queue (R134). -/
def Converter.withdraw (c : Converter) (i : StationId) : Converter :=
  { c with queue := put c.queue i none, sample := c.sample.map fun x => x.discardFor i }

/-- The reference check starts: last granted 3, flag clear, REFH first (R135, R136). A sample still in
progress from before runs to its end first. -/
def Converter.startCheck (c : Converter) : Converter :=
  let c' := { c with queue := Vector.replicate 4 none, lastGranted := 3, refFlag := false,
                     refCheck := some ⟨0, 0, 0⟩ }
  if c.sample.isSome then c' else c'.grant

/-- A check still running is stopped; its sample ends unused (R136). -/
def Converter.stopCheck (c : Converter) : Converter :=
  { c with refCheck := none, queue := Vector.replicate 4 none,
           sample := c.sample.map fun x => { x with live := false } }

/-- A reference sample's code joins its tap's sum (R136). -/
def RefCheck.add (r : RefCheck) (code : Nat) : RefCheck :=
  if r.done < 16 then { r with done := r.done + 1, high := r.high + code }
  else { r with done := r.done + 1, low := r.low + code }

/-- A tap's mean code, rounded half up (R136). -/
def refMean (sum : Nat) : Nat := roundNat sum 16

/-- A mean differs from its nominal code by more than 16 (R136). -/
def outOfTolerance (mean nominal : Nat) : Bool :=
  decide (nominal + 16 < mean) || decide (mean + 16 < nominal)

/-- Writes the reference fields of the rack status (R136). -/
def Part.writeReference (p : Part) (high low : Nat) (suspect : Bool) : Part :=
  (p.poke32 Config.refMeans (word2 (n16 high) (n16 low)).toNat).poke32 Config.refSuspect
    (bit suspect).toNat

/-- The last reference sample has ended: means recorded, flag and cause set if one is out (R136). -/
def Part.endCheck (p : Part) (r : RefCheck) : Part :=
  let high := refMean r.high
  let low := refMean r.low
  let bad := outOfTolerance high 3072 || outOfTolerance low 1024
  let p1 := { p with conv := { p.conv with refCheck := none, refFlag := bad } }
  let p2 := p1.writeReference high low bad
  if bad then p2.raise .ref else p2

/-- A request takes a code (R133). -/
def Request.add (q : Request) (code : Nat) : Request :=
  { q with done := q.done + 1, sum := q.sum + code }

/-- Changes the converter. -/
def Part.setConv (p : Part) (f : Converter → Converter) : Part := { p with conv := f p.conv }

/-! ### Input monitors (07 section 7.5) -/

/-- The edge code selects an edge: 0 rising, 1 falling, 2 both. -/
def selects (edgeCode : Nat) (rising : Bool) : Bool :=
  decide (edgeCode = 2) || decide (edgeCode = if rising then 0 else 1)

/-- A filtered edge at a monitor (R138, R139). -/
def InputMonitor.edge (n : InputMonitor) (now : Time) : InputMonitor :=
  let rising := !n.level
  if selects n.edgeCode rising then
    { n with level := rising, edges := countUp 65535 n.edges, lastEdge := now, changed := true }
  else { n with level := rising, changed := true }

/-- An excursion the filter rejects (R138, R139). DESIGN CHOICE (log 44): one that finds the count at 65,535 is a change
all the same, so that the record is written at the end of the ms. -/
def InputMonitor.reject (n : InputMonitor) : InputMonitor :=
  { n with rejected := countUp 65535 n.rejected, changed := true }

/-- The input statistics record of an input (12.3): counts and time first, level last. All four words are
written at each write of the record, the one with the filter and edge codes among them (log 38). -/
def Part.writeInput (p : Part) (i : StationId) (k : Fin 8) : Part :=
  let n := (p.station i).aq.inputs[k]
  let x := Config.inputRecord i k
  (((p.poke32 x (word2 (n16 n.edges) (n16 n.rejected)).toNat).poke32 (x + 4) n.lastEdge.toNat).poke32
    (x + 8) (word4 (n8 n.filter) (n8 n.edgeCode) 0 0).toNat).poke32 (x + 12) (bit n.level).toNat

/-- The eight input numbers. -/
def inputIds : List (Fin 8) := List.finRange 8

/-- At the end of a ms the records of the inputs that changed are written (R139). -/
def Part.writeInputs (p : Part) (i : StationId) : Part :=
  let p1 := inputIds.foldl
    (fun q k => if (q.station i).aq.inputs[k].changed then q.writeInput i k else q) p
  p1.setAq i fun m => { m with inputs := mapEach (fun n => { n with changed := false }) m.inputs }

/-- The open edge window counts an edge of its input (R140). -/
def EdgeWindow.edge (w : EdgeWindow) (k : Fin 8) (n : InputMonitor) : EdgeWindow :=
  if w.input = k ∧ selects n.edgeCode (!n.level) then { w with count := w.count + 1 } else w

/-! ### Frequency meters (07 section 7.6) -/

/-- An arming (R142). -/
def Meter.arm (m : Meter) (k : Fin 8) (gate : Nat) (now : Time) : Meter :=
  { m with state := .armed, shown := .armed, input := k, gate := gate, periods := 0, highTicks := 0,
           armedAt := now, first := 0, mark := 0 }

/-- A disarm leaves the last counts and status (R144). -/
def Meter.disarm (m : Meter) : Meter := { m with state := .idle, shown := .idle }

/-- The high ticks up to a stamp, given the level since the last mark (R142). -/
def Meter.highUpTo (m : Meter) (level : Bool) (t : Tick) : Nat :=
  if level then m.highTicks + (t - m.mark).toNat else m.highTicks

/-- A filtered edge of the meter's input at a tick stamp, `level` the level before it (R142, R143): the
meter after it, and the counts P, T, Hc if it closes the measurement. -/
def Meter.edge (m : Meter) (level : Bool) (t : Tick) : Meter × Option (Nat × Nat × Nat) :=
  match m.state, level with
  | .armed, false => ({ m with state := .counting, first := t, mark := t }, none)
  | .counting, false =>
    ({ m with periods := m.periods + 1, highTicks := m.highUpTo false t, mark := t }, none)
  | .counting, true => ({ m with highTicks := m.highUpTo true t, mark := t }, none)
  | .closing, true => ({ m with highTicks := m.highUpTo true t, mark := t }, none)
  | .closing, false =>
    let ticks := (t - m.first).toNat
    let hc := m.highUpTo false t
    ({ m with state := .idle, shown := .idle, periods := m.periods + 1, highTicks := hc, mark := t,
              lastP := m.periods + 1, lastT := ticks, lastHc := hc, noSignal := false },
     some (m.periods + 1, ticks, hc))
  | _, _ => (m, none)

/-- The deadline of an armed meter has been reached: three gates from the arming (R142, R144). -/
def Part.meterDue (p : Part) (m : Meter) : Bool := p.passed m.armedAt (3 * m.gate)

/-- A measurement ends NO_SIGNAL (R144). -/
def Meter.noSignalEnd (m : Meter) : Meter :=
  { m with state := .idle, shown := .idle, lastP := 0, lastT := 0, lastHc := 0, noSignal := true }

/-- The marks of a meter's five header words, which every end of its measurement publishes (R143 to R145). -/
def meterMarks (n : Fin 2) : BitVec 64 :=
  (List.range 5).foldl (fun b k => b ||| wordMark (0x54 + 20 * n.val + 4 * k)) 0

/-- Every meter that is armed is disarmed (R144, R145). -/
def Monitors.disarmAll (a : Monitors) : Monitors := { a with meters := mapEach Meter.disarm a.meters }

/-! ### The lamp scanner (07 section 7.7) -/

/-- A row update at a cell (R148). -/
def LampCell.update (c : LampCell) (h : LampHead) (reading : Byte) (now : Time) : LampCell :=
  let c' := { c with intensity := reading }
  if c.lit then
    if reading.toNat ≤ h.offLevel then { c' with lit := false, transitions := countUp 65535 c.transitions }
    else c'
  else if h.onLevel ≤ reading.toNat then
    { c' with lit := true, transitions := countUp 65535 c.transitions, onset := now, onsetSeen := true,
              blink := if c.onsetSeen then min 65535 (now - c.onset).toNat else c.blink }
  else c'

/-- The record number of a cell of the matrix. -/
def lampIndex (row column : Nat) : Nat := 8 * row + column

/-- Writes a lamp cell's record: counts and time first, intensity and state last (R148). -/
def Part.writeLamp (p : Part) (i : StationId) (k : Nat) (c : LampCell) : Part :=
  let x := Config.lampRecord i k
  (p.poke32 x (word2 (n16 c.transitions) (c.onset.setWidth 16)).toNat).poke32 (x + 4)
    (word4 (n8 c.blink) (n8 (c.blink / 256)) c.intensity (bit c.lit)).toNat

/-- Updates one cell of the row being read, writing its record if it changed (R148); an update that leaves the
cell as it was writes nothing, over a host's write neither (log 39). -/
def Part.updateLamp (p : Part) (i : StationId) (column : Fin 8) (reading : Byte) : Part :=
  let h := (p.station i).aq.head
  if column.val < h.columns then
    match index 64 (lampIndex h.row column.val) with
    | none => p
    | some k =>
      let c := h.cells[k].update h reading p.rackTime
      if c = h.cells[k] then p
      else
        (p.setAq i fun a => { a with head := { a.head with cells := put a.head.cells k c } }).writeLamp
          i k.val c
  else p

/-- The next row, and the frame counter after the last one (R147). -/
def LampHead.advance (h : LampHead) : LampHead :=
  if h.row + 1 < h.rows then { h with row := h.row + 1 }
  else { h with row := 0, frames := h.frames + 1 }

/-- What a LAMP attempt reads from a cell (R149, R152). -/
def LampHead.read (h : LampHead) (row column : Nat) (item : LampItem) : Int :=
  match index 64 (lampIndex row column) with
  | none => 0
  | some k =>
    match item with
    | .intensity => h.cells[k].intensity.toNat
    | .state => if h.cells[k].lit then 1 else 0
    | .blink => h.cells[k].blink

end Sys2Proof.Machine
end

