-- ==== Sys2Proof/Machine/Panel.lean ====
section
/-! DEFINITION. The panel controller (10): rendering, the showing entry and its queue, notices, beeps and
what it publishes. -/

namespace Sys2Proof.Machine

/-! ### Characters -/

/-- Characters as bytes. -/
def ascii (cs : List Char) : List Byte := cs.map fun c => n8 c.toNat

/-- A run of spaces. -/
def spaces (n : Nat) : List Byte := List.replicate n 0x20

/-- Right-aligned in a width. -/
def padLeft (w : Nat) (cs : List Byte) : List Byte := spaces (w - cs.length) ++ cs

/-- Left-aligned in a width. -/
def padRight (w : Nat) (cs : List Byte) : List Byte := cs ++ spaces (w - cs.length)

/-- The decimal digits of a number (at most `fuel` of them) before others. -/
def decimalDigits : Nat → Nat → List Byte → List Byte
  | 0, _, acc => acc
  | fuel + 1, n, acc =>
    if n / 10 = 0 then n8 (48 + n % 10) :: acc
    else decimalDigits fuel (n / 10) (n8 (48 + n % 10) :: acc)

/-- A number in decimal. -/
def decimal (n : Nat) : List Byte := decimalDigits 20 n []

/-- A signed number in decimal, a minus sign only if negative (R190). -/
def decimalInt (v : Int) : List Byte := if v < 0 then 0x2D :: decimal v.natAbs else decimal v.natAbs

/-- The label of a unit code, left-aligned in 4 (R190). -/
def unitLabel (u : Nat) : List Byte :=
  padRight 4
    (if u = 1 then ascii ['m', 'V'] else if u = 2 then ascii ['m', 'A']
     else if u = 3 then ascii ['m', 'O', 'h', 'm'] else if u = 4 then ascii ['O', 'h', 'm']
     else if u = 5 then ascii ['o', '/', 'o', 'o'] else if u = 6 then ascii ['m', 's']
     else if u = 7 then ascii ['m', 'H', 'z'] else if u = 8 then ascii ['k', 'm', '/', 'h']
     else if u = 9 then ascii ['r', 'p', 'm'] else [])

/-- The name of a fault reason as the reason table spells it (R184). -/
def FaultReason.name : FaultReason → List Byte
  | .overcurrent => ascii ['O', 'V', 'E', 'R', 'C', 'U', 'R', 'R', 'E', 'N', 'T']
  | .interlock => ascii ['I', 'N', 'T', 'E', 'R', 'L', 'O', 'C', 'K']
  | .jammed => ascii ['J', 'A', 'M', 'M', 'E', 'D']
  | .noPart => ascii ['N', 'O', '_', 'P', 'A', 'R', 'T']

/-! ### Rendering (R189, R190) -/

/-- The width of a field code, if it names a field (12.8). -/
def fieldWidth (code : Byte) : Option Nat :=
  let v := code.toNat
  if v = 1 then some 1 else if v = 2 then some 5 else if v = 3 then some 10 else if v = 4 then some 4
  else if 0x10 ≤ v ∧ v ≤ 0x13 then some 10 else if 0x18 ≤ v ∧ v ≤ 0x1B then some 10
  else if v = 0x20 then some 2 else if v = 0x21 then some 10 else none

/-- The characters of a station's live field (R190); the code names a field. -/
def Part.fieldText (p : Part) (i : StationId) (code : Byte) : List Byte :=
  let x := p.station i
  let v := code.toNat
  if v = 1 then decimal i.val
  else if v = 2 then padLeft 5 (decimal x.walker.run.number.toNat)
  else if v = 3 then padLeft 10 (decimalInt x.walker.lastValue)
  else if v = 4 then unitLabel x.walker.lastUnit
  else if v < 0x18 then
    match index 4 (v - 0x10) with
    | some k => padLeft 10 (decimal x.st.pg[k].present)
    | none => spaces 10
  else if v < 0x20 then
    match index 4 (v - 0x18) with
    | some k =>
      padLeft 10 (if x.st.lv[k].present = 65535 then ascii ['O', 'P', 'E', 'N']
                  else decimal x.st.lv[k].present)
    | none => spaces 10
  else if v = 0x20 then
    if x.fx.code = 63 then ascii ['-', '-']
    else [n8 (48 + x.fx.code.toNat / 10), n8 (48 + x.fx.code.toNat % 10)]
  else
    match x.fx.captured with
    | some c => padLeft 10 (decimal (p.cycleCount c.toNat))
    | none => spaces 10

/-- What a field shows: a station's data, or spaces where no station owns the text (R191). -/
def Part.fieldFor (p : Part) (owner : Option StationId) (code : Byte) : Option (List Byte) :=
  (fieldWidth code).map fun w =>
    match owner with
    | some i => (p.fieldText i code).take w
    | none => spaces w

/-- A byte shown as itself, or as a space outside 0x20 to 0x7E (R189). -/
def plainChar (b : Byte) : Byte := if 0x20 ≤ b.toNat ∧ b.toNat ≤ 0x7E then b else 0x20

/-- The characters from a position on (R189). A field that would run past the end of line 1 is cut there;
the positions of line 2 it spans are shown as plain characters and not examined for markers (log 16). -/
def renderFrom (fields : Byte → Option (List Byte)) (text : List Byte) : Nat → Nat → List Byte
  | 0, _ => []
  | fuel + 1, pos =>
    if 48 ≤ pos then []
    else
      let b := text.getD pos 0x20
      let lineEnd := if pos < 24 then 24 else 48
      if b = 0x1B ∧ pos + 1 < lineEnd then
        match fields (text.getD (pos + 1) 0) with
        | none => 0x20 :: 0x20 :: renderFrom fields text fuel (pos + 2)
        | some [c] => c :: 0x20 :: renderFrom fields text fuel (pos + 2)
        | some cs =>
          let room := lineEnd - pos
          cs.take room ++
            (((text.drop lineEnd).take (cs.length - room)).map plainChar ++
              renderFrom fields text fuel (pos + cs.length))
      else plainChar b :: renderFrom fields text fuel (pos + 1)

/-- The 48 characters of a text. -/
def renderText (fields : Byte → Option (List Byte)) (text : List Byte) : List Byte :=
  (renderFrom fields text 48 0).take 48

/-- The built-in text of a notice (R184). -/
def noticeText (i : StationId) (r : FaultReason) : List Byte :=
  padRight 24
    (ascii ['S', 'T', 'A', 'T', 'I', 'O', 'N', ' '] ++ decimal i.val ++
      ascii [' ', 'F', 'A', 'U', 'L', 'T']) ++
  padRight 24 r.name

/-- The characters of an entry as they now render (R189, R190). -/
def Part.renderEntry (p : Part) (e : PanelEntry) : List Byte :=
  match e.notice with
  | some _ => e.text
  | none => renderText (p.fieldFor (some e.station)) e.text

/-- Changes the panel. -/
def Part.setPanel (p : Part) (f : Panel → Panel) : Part := { p with panel := f p.panel }

/-- Shows 48 characters, and writes the display image if it changed (R189, R191, log 14). -/
def Part.showText (p : Part) (cs : List Byte) : Part :=
  let p1 := p.setPanel fun c => { c with display := cs, image := some cs }
  if p.panel.image = some cs then p1
  else { p1 with mem := p1.mem.writeBytes Config.displayImage cs }

/-! ### What the panel publishes (R175, 12.2) -/

/-- A timeout as published, 0xFFFFFFFF for none. -/
def limitWord : Option Nat → Word
  | some v => n32 v
  | none => 0xFFFFFFFF

/-- The two words of a queue place. -/
def queueWords : Option PanelEntry → List Word
  | none => [word4 255 0 0 0, 0]
  | some e =>
    [word4 (n8 e.station.val) (bit e.notice.isSome) (bit e.urgent) (n8 e.slot), limitWord e.remaining]

/-- The four words of the showing entry record. -/
def showingWords : Option PanelEntry → List Word
  | none => [word4 255 0 0 0, 0, 0, 0]
  | some e =>
    [word4 (n8 e.station.val) (bit e.notice.isSome) (bit e.urgent) (n8 e.slot),
     word4 (if e.notice.isSome then 255 else n8 e.cell.val) (n8 e.repeatCount) (n8 e.repeatOffset)
       (bit e.rerun),
     limitWord e.remaining, n32 e.shown]

/-- Numbers words from an offset on, four bytes apart. -/
def numbered (x : Nat) : List Word → List (Nat × Word)
  | [] => []
  | w :: ws => (x, w) :: numbered (x + 4) ws

/-- The queue image and its length. -/
def queueImageWords (q : List PanelEntry) : List (Nat × Word) :=
  numbered Config.queueImage
      (queueWords q[0]? ++ queueWords q[1]? ++ queueWords q[2]? ++ queueWords q[3]?) ++
    [(Config.queueLength, word4 (n8 q.length) 0 0 0)]

/-- Publishes the queue image and then the showing entry record. -/
def Part.publishPanel (p : Part) : Part :=
  { p with
    mem := (p.mem.writeWords 0 (queueImageWords p.panel.queue)).writeWords 0
      (numbered Config.showingRecord (showingWords p.panel.showing)) }

/-- Writes the showing entry's remaining timeout and shown ms, as a render does. -/
def Part.publishFigures (p : Part) : Part :=
  { p with
    mem := p.mem.writeWords 0
      ((numbered Config.showingRecord (showingWords p.panel.showing)).drop 2) }

/-! ### Beeps (R192) -/

/-- The later of a beep end still ahead and a new one. -/
def laterEnd (now : Time) (old : Option Time) (length : Nat) : Time :=
  let new := now + BitVec.ofNat 32 length
  match old with
  | none => new
  | some e =>
    if (now - e).toNat < 2 ^ 31 then new
    else if (e - now).toNat < length then new
    else e

/-- A beep is asked for. -/
def Part.beep (p : Part) (length : Nat) : Part :=
  p.setPanel fun c => { c with buzzerEnd := some (laterEnd p.rackTime c.buzzerEnd length) }

/-! ### The showing entry and the queue (10 section 10.4) -/

/-- Shows an entry (R179, steps 1 to 4). -/
def Part.showEntry (p : Part) (e : PanelEntry) : Part :=
  let p1 := p.setPanel fun c =>
    { c with showing := some e, showTime := p.rackTime,
             beepTime := if e.notice.isSome then p.after Config.noticeInterval else c.beepTime }
  let p2 := (p1.showText (p1.renderEntry e)).publishPanel
  if e.notice.isSome then p2.beep Config.longBeep
  else if e.urgent then p2.beep Config.shortBeep
  else p2

/-- The idle display (R191). -/
def Part.showIdle (p : Part) : Part :=
  let slot := p.config.idleSlot
  p.showText
    (if slot = 255 then Panel.blank
     else renderText (p.fieldFor none) (p.mem.bytes (Config.textSlot slot) 48))

/-- The showing entry ends: the head of the queue is shown, or the idle display (R179). -/
def Part.endShowing (p : Part) : Part :=
  match p.panel.queue with
  | e :: rest => (p.setPanel fun c => { c with showing := none, queue := rest }).showEntry e
  | [] => (p.setPanel fun c => { c with showing := none }).showIdle.publishPanel

/-- The queue with an entry at the end of its class's group (R178). -/
def enqueue (q : List PanelEntry) (e : PanelEntry) : List PanelEntry :=
  if e.urgent then q.filter (·.urgent) ++ [e] ++ q.filter (!·.urgent) else q ++ [e]

/-- The queue with a preempted prompt at the front of the NORMAL group (R183). -/
def requeue (q : List PanelEntry) (e : PanelEntry) : List PanelEntry :=
  q.filter (·.urgent) ++ [e] ++ q.filter (!·.urgent)

/-- A prompt taken off the display keeps its figures; one whose expiry has not been taken keeps a remaining
timeout of 1 ms (R180, log 19). -/
def PanelEntry.kept (e : PanelEntry) : PanelEntry :=
  if e.remaining = some 0 then { e with remaining := some 1 } else e

/-- Places a new entry (R178, R183). -/
def Part.placeEntry (p : Part) (e : PanelEntry) : Part :=
  match p.panel.showing with
  | none => p.showEntry e
  | some cur =>
    if e.notice.isSome ∧ cur.notice.isNone ∧ cur.urgent = false then
      (p.setPanel fun c => { c with queue := requeue c.queue cur.kept }).showEntry e
    else (p.setPanel fun c => { c with queue := enqueue c.queue e }).publishPanel

/-- An entry is the station's prompt. -/
def PanelEntry.promptOf (e : PanelEntry) (i : StationId) : Bool :=
  decide (e.station = i) && e.notice.isNone

/-- An entry is the station's notice. -/
def PanelEntry.noticeOf (e : PanelEntry) (i : StationId) : Bool :=
  decide (e.station = i) && e.notice.isSome

/-- Removes the queued entries a test picks; where there is none, nothing changes. -/
def Part.dropQueued (p : Part) (pick : PanelEntry → Bool) : Part :=
  if p.panel.queue.any pick then
    (p.setPanel fun c => { c with queue := c.queue.filter fun e => !pick e }).publishPanel
  else p

/-- The entry of a station's prompt, showing or queued. -/
def Panel.promptOf (c : Panel) (i : StationId) : Option PanelEntry :=
  match c.showing with
  | some e => if e.promptOf i then some e else c.queue.find? (·.promptOf i)
  | none => c.queue.find? (·.promptOf i)

/-- Withdraws a station's prompt (R182); at a fault the place of a showing one is left for the notice
(R184). -/
def Part.withdrawPrompt (p : Part) (i : StationId) (forNotice : Bool) : Part :=
  match p.panel.showing with
  | some e =>
    if e.promptOf i then
      if forNotice then p.setPanel fun c => { c with showing := none } else p.endShowing
    else p.dropQueued (·.promptOf i)
  | none => p.dropQueued (·.promptOf i)

/-- Removes a station's notice, showing or queued (R185). -/
def Part.removeNotice (p : Part) (i : StationId) : Part :=
  match p.panel.showing with
  | some e => if e.noticeOf i then p.endShowing else p.dropQueued (·.noticeOf i)
  | none => p.dropQueued (·.noticeOf i)

/-- The entry of a station's notice (R184); the fields it does not use are 0, the shown ms it publishes among them
(log 42). -/
def noticeEntry (i : StationId) (r : FaultReason) : PanelEntry :=
  { station := i, notice := some r, urgent := true, acknowledge := false, text := noticeText i r,
    slot := 255, cell := 0, runNumber := 0, remaining := none, shown := 0, repeatOffset := 0,
    repeatCount := 0, rerun := false }

/-- The entry of a PROMPT (R177). -/
def Part.promptEntry (p : Part) (i : StationId) (c : CellId) (run : BitVec 16) (q : PromptParams) :
    PanelEntry :=
  { station := i, notice := none, urgent := q.urgent, acknowledge := q.acknowledge,
    text := p.mem.bytes (Config.textSlot q.slot) 48, slot := q.slot, cell := c, runNumber := run,
    remaining := if q.timeout = 0 then none else some (1000 * q.timeout), shown := 0,
    repeatOffset := q.repeatOffset, repeatCount := 0, rerun := false }

/-- Changes a station's prompt wherever it stands, and publishes it. -/
def Part.changePrompt (p : Part) (i : StationId) (f : PanelEntry → PanelEntry) : Part :=
  let g := fun e : PanelEntry => if e.promptOf i then f e else e
  (p.setPanel fun c => { c with showing := c.showing.map g, queue := c.queue.map g }).publishPanel

/-- A showing prompt counts one ms (R180). DESIGN CHOICE (log 43): shown ms past 4,294,967,295 go on counting here, and
what is published is their low 32 bits. -/
def PanelEntry.tick (e : PanelEntry) : PanelEntry :=
  if e.notice.isSome then e
  else
    { e with shown := e.shown + 1,
             remaining := if e.rerun then e.remaining else e.remaining.map (· - 1) }

/-- A press is inside the show guard of the showing entry (R174). -/
def Part.guarded (p : Part) : Bool := !p.passed p.panel.showTime Config.showGuard

end Sys2Proof.Machine
end

