-- ==== Sys2Proof/Machine/Fixture.lean ====
section
/-! DEFINITION. The fixture controller (03): its states with their drive and timers, the two-hand pair, the
cycle count and the contact matrix. -/

namespace Sys2Proof.Machine

/-! ### Levels -/

def FixtureLevels.get (l : FixtureLevels) : FixtureInput → Bool
  | .nest => l.nest | .closed => l.closed | .opened => l.opened
  | .startL => l.startL | .startR => l.startR | .guard => l.guard

/-- A debounced level changes (R50). -/
def FixtureLevels.flip (l : FixtureLevels) : FixtureInput → FixtureLevels
  | .nest => { l with nest := !l.nest }
  | .closed => { l with closed := !l.closed }
  | .opened => { l with opened := !l.opened }
  | .startL => { l with startL := !l.startL }
  | .startR => { l with startR := !l.startR }
  | .guard => { l with guard := !l.guard }

/-! ### Debouncing (R50, R51) -/

/-- The number of an input's debouncer. -/
def inputNumber : FixtureInput → Fin 6
  | .nest => 0 | .closed => 1 | .opened => 2 | .startL => 3 | .startR => 4 | .guard => 5

/-- The debouncers at an increment of rack time: an input whose raw level differs counts, and so does a code held that
is not the mounted one; any other stands at 0 (R50, R51). -/
def Fixture.countRaw (f : Fixture) (limit : Nat) (r : FixtureRaw) : Fixture :=
  { f with
    raw := Vector.ofFn fun k => rawCount r.inputs limit k f.raw[k]
    codeRaw := r.code.getD f.codeRaw
    codeCount := countHeld limit (r.code.getD f.codeRaw ≠ f.code) r.code.isSome f.codeCount }

/-- An input's raw level has differed for the debounce time (R50). -/
def Fixture.inputDue (f : Fixture) (limit : Nat) (k : FixtureInput) : Bool :=
  decide (limit ≤ f.raw[inputNumber k])

/-- A debounced level changes, and its count starts anew (R50). -/
def Fixture.takeInput (f : Fixture) (k : FixtureInput) : Fixture :=
  { f with levels := f.levels.flip k, raw := put f.raw (inputNumber k) 0 }

/-- The code bits have held a code, not the mounted one, for the debounce time (R51). -/
def Fixture.codeDue (f : Fixture) (limit : Nat) (c : BitVec 6) : Bool :=
  decide (c = f.codeRaw) && decide (c ≠ f.code) && decide (limit ≤ f.codeCount)

/-- The mounted code changes, and its count starts anew (R51). -/
def Fixture.takeCode (f : Fixture) (c : BitVec 6) : Fixture := { f with code := c, codeCount := 0 }

/-! ### States with drive and timers (R53, section 3.2) -/

/-- At rest in a state: no timer runs and the two-hand pair is forgotten. -/
def Fixture.rest (f : Fixture) (st : FixtureState) (drive : Bool) : Fixture :=
  { f with state := some st, drive := drive, travelStart := none, handTimer := none, twoHand := false,
           lockedOut := false, firstPress := none }

def Fixture.toOpen (f : Fixture) : Fixture := f.rest .opened false
def Fixture.toClamped (f : Fixture) : Fixture := f.rest .clamped true
def Fixture.toJammed (f : Fixture) : Fixture := f.rest .jammed false

/-- OPENING with the travel timer started now (R60, R62). -/
def Fixture.toOpening (f : Fixture) (now : Time) : Fixture :=
  { f.rest .opening false with travelStart := some now }

/-- CLOSING with the travel timer started now (R56, R57); `twoHand` says whether the buttons are watched. -/
def Fixture.toClosing (f : Fixture) (now : Time) (twoHand : Bool) : Fixture :=
  { f.rest .closing true with travelStart := some now, twoHand := twoHand }

/-- ARMING with the two-hand timer, if any; a button held at the entry locks the pair out (R56, R57). -/
def Fixture.toArming (f : Fixture) (now : Time) (timeout : Nat) : Fixture :=
  { f.rest .arming false with
    handTimer := if timeout = 0 then none else some (now, timeout)
    lockedOut := f.levels.startL || f.levels.startR }

/-- The CLAMP's captured code and travel timeout in use (R55). -/
def Fixture.capture (f : Fixture) (travel : Nat) : Fixture :=
  { f with captured := some f.code, travelTimeout := clampNat 100 5000 travel }

/-- The captured code as a number, 255 for none (R54, log 18). -/
def Fixture.capturedNumber (f : Fixture) : Nat :=
  match f.captured with
  | some c => c.toNat
  | none => 255

/-- The source off and the matrix open (R69, R72). -/
def Fixture.contactOff (f : Fixture) : Fixture := { f with source := false, matrix := none }

/-- A pin routed and the source applied (R69). -/
def Fixture.route (f : Fixture) (pin : Nat) : Fixture := { f with source := true, matrix := some pin }

/-- Timers stopped and the pair forgotten; state and drive stand (R54, disable). -/
def Fixture.freeze (f : Fixture) : Fixture :=
  { f with travelStart := none, handTimer := none, lockedOut := false, firstPress := none,
           source := false, matrix := none }

/-- The fixture controller after a reset: the debouncers run on (R52, R54; travel timeout: log 4). -/
def Fixture.afterReset (f : Fixture) : Fixture :=
  { Fixture.reset with levels := f.levels, code := f.code, raw := f.raw, codeRaw := f.codeRaw,
                       codeCount := f.codeCount }

/-- The fixture controller at an enable (R54, R55). -/
def Fixture.enable (f : Fixture) (now : Time) : Fixture :=
  let f1 := { f.contactOff with captured := none, travelTimeout := Config.longestTravel }
  if f.levels.opened then f1.toOpen else f1.toOpening now

/-- The halt notice at the fixture controller (R34, R58, R60, R63). -/
def Fixture.halt (f : Fixture) (now : Time) : Fixture :=
  match f.state with
  | some .closing => f.toOpening now
  | some .arming => f.toOpen
  | _ => f

/-! ### The two-hand pair (R57) -/

/-- What a change of a start button does to the pair while ARMING, and whether the start is accepted.
`f` holds the levels after the change; `held` is the new level of the button. -/
def Fixture.judgeHands (f : Fixture) (held : Bool) (now : Time) (window : Nat) : Fixture × Bool :=
  let both := f.levels.startL && f.levels.startR
  let neither := !f.levels.startL && !f.levels.startR
  if held then
    if f.lockedOut then (f, false)
    else if both then
      match f.firstPress with
      | some t =>
        if (now - t).toNat ≤ window ∧ f.levels.nest = true then (f, true)
        else ({ f with lockedOut := true }, false)
      | none => ({ f with lockedOut := true }, false)
    else ({ f with firstPress := some now }, false)
  else if neither then ({ f with lockedOut := false, firstPress := none }, false)
  else if f.lockedOut then (f, false)
  else ({ f with firstPress := none }, false)

/-! ### Cycle counts (R67) -/

/-- The cycle count of a record goes up by one, staying at 2^32 − 1. -/
def Part.countCycle (p : Part) (code : Nat) : Part :=
  p.poke32 (Config.fixtureRecord code) (countUp 4294967295 (p.cycleCount code))

/-! ### CONTACT (R68, R69, R70) -/

/-- −1 in all 32 contact results. -/
def Part.clearContacts (p : Part) (i : StationId) : Part :=
  { p with mem := p.mem.writeBytes (Config.contactResult i 0) (List.replicate 128 0xFF) }

/-- Writes a pin's entry. -/
def Part.writeContact (p : Part) (i : StationId) (pin : Nat) (v : Int) : Part :=
  p.poke32 (Config.contactResult i pin) (s32Bits v)

/-- The conversion request of a pin (R69): CT, four samples, the record's hold code. -/
def contactRequest (c : Calibration) : Request :=
  { channel := none, samples := 4, hold := c.hold, done := 0, sum := 0, requester := .fixture }

/-- Routes a pin and places its request. -/
def Part.startPin (p : Part) (i : StationId) (c : Calibration) (pin : Nat) : Part :=
  (p.setFx i (·.route pin)).setConv (·.place i (contactRequest c))

/-- A measured pin joins the step's figures (R70, R71). -/
def ContactWork.add (w : ContactWork) (v : Int) (sat : Bool) : ContactWork :=
  { w with
    pin := w.pin + 1
    greatest := if w.pin = 0 ∨ w.greatest < v then v else w.greatest
    greatestAt := if w.pin = 0 ∨ w.greatest < v then w.pin else w.greatestAt
    firstAbove := if w.firstAbove.isNone ∧ (w.threshold : Int) < v then some w.pin else w.firstAbove
    saturated := w.saturated || sat }

/-- The result of a CONTACT whose last pin has been measured (R71); its unit is mΩ (unit code 3). -/
def ContactWork.result (w : ContactWork) : Result :=
  match w.firstAbove with
  | none =>
    { verdict := .pass, reason := .ok, flags := flagIf w.saturated resSaturated, value := w.greatest,
      aux := w.greatestAt, attempts := w.pin, unit := 3 }
  | some k =>
    { verdict := .fail, reason := .contactFail, flags := flagIf w.saturated resSaturated,
      value := w.greatest, aux := k, attempts := w.pin, unit := 3 }

end Sys2Proof.Machine
end

