-- ==== Sys2Proof/Machine/Attempts.lean ====
section
/-! DEFINITION. The attempt loop of MEASURE and LISTEN (09): starting an attempt, the settle loop, the trace
buffer, and how the loop ends. -/

namespace Sys2Proof.Machine

/-- Gives the step being worked its work. -/
def Part.setWork (p : Part) (i : StationId) (k : Work) : Part := p.setWalker i (·.setWork k)

/-! ### Results (R166, R171) -/

/-- A PASS: the last attempt's value and upper bound. -/
def passResult (flags : BitVec 16) (a : Attempt) (attempts unit : Nat) : Result :=
  { verdict := .pass, reason := .ok, flags := flags, value := a.value, aux := a.upper,
    attempts := attempts, unit := unit }

/-- A FAIL: the last evaluated attempt's value and judged bound, 0 and 0 if there was none. -/
def failResult (reason : Reason) (flags : BitVec 16) (last : Option Attempt) (attempts unit : Nat) :
    Result :=
  { verdict := .fail, reason := reason, flags := flags, value := last.elim 0 Attempt.value,
    aux := last.elim 0 Attempt.judged, attempts := attempts, unit := unit }

/-- A MEASURE fails with its last miss (R166). -/
def MeasureWork.fail (w : MeasureWork) : Result :=
  failResult (measureReason w.lastMiss) w.flags w.last w.attempts w.params.cal.unit

/-- A LISTEN fails with its last miss (R171). -/
def ListenWork.fail (w : ListenWork) : Result :=
  failResult (listenReason w.lastMiss w.attempts) w.flags w.last w.attempts w.params.cal.unit

/-! ### The trace buffer (R167) -/

/-- Appends a value, or sets TRACE_FULL when the 128 slots are full; every append publishes the count (R167). -/
def Part.traceAppend (p : Part) (i : StationId) (v : Int) : Part :=
  let n := (p.station i).walker.run.traceCount
  (if n.toNat < 128 then
    (p.poke32 (Config.traceSlot i n.toNat) (s32Bits v)).setWalker i fun w =>
      { w with run := { w.run with traceCount := n + 1 } }
  else p.setWalker i fun w => { w with run := { w.run with traceFull := 1 } }).mark i (wordMark 0x20)

/-- The trace is full, so that an append drops its value. -/
def Part.traceIsFull (p : Part) (i : StationId) : Bool :=
  decide (128 ≤ (p.station i).walker.run.traceCount.toNat)

/-! ### The settle loop (R164, R165) -/

/-- The attempt state after an evaluation (R164, steps 1 and 2). -/
def MeasureWork.count (w : MeasureWork) (a : Attempt) : MeasureWork :=
  { w with
    attempts := countUp 65535 w.attempts, last := some a, gathering := .none
    saturated := w.saturated || a.saturated
    hits := if a.cls = .inWindow then w.hits + 1 else 0
    lastMiss := if a.cls = .inWindow then w.lastMiss else some (.attempt a.cls) }

/-- How the loop stands after an evaluation: a result if it has ended (R164 step 4, R165). -/
def MeasureWork.verdict (w : MeasureWork) (a : Attempt) : Option Result :=
  if w.params.hits ≤ w.hits then some (passResult w.flags a w.attempts w.params.cal.unit)
  else if w.params.settle = 0 then (if w.params.hits ≤ w.attempts then some w.fail else none)
  else if w.expired then some w.fail
  else none

/-- One evaluation taken by the settle loop (R164): trace, hits, and the ending if it comes. -/
def Part.settleLoop (p : Part) (i : StationId) (w : MeasureWork) (traced : Bool) (a : Attempt) :
    Part × Option Result :=
  let w1 := w.count a
  let w2 := if traced then { w1 with traceFull := w1.traceFull || p.traceIsFull i } else w1
  let p1 := if traced then p.traceAppend i a.value else p
  (p1.setWork i (.measure w2), w2.verdict a)

/-! ### Attempts (R162, R163) -/

/-- The datum of a source read at the start of an attempt, none for the others (R152, R162). -/
def Part.instantCount (p : Part) (i : StationId) : Source → Option Int
  | .supplyI => some (p.station i).ps.current
  | .supplyV => some (p.station i).ps.voltage
  | .level k => some (if (p.station i).aq.inputs[k].level then 1 else 0)
  | .lamp r c t => some ((p.station i).aq.head.read r c t)
  | .analog _ _ | .freq _ _ _ | .duty _ _ _ | .edges _ _ => none

/-- A source read at the start (R163). -/
def Source.instant : Source → Bool
  | .supplyI | .supplyV | .level _ | .lamp _ _ _ => true
  | .analog _ _ | .freq _ _ _ | .duty _ _ _ | .edges _ _ => false

/-- The conversion request of an ANALOG attempt (R162): N = 2^k samples of the channel. -/
def analogRequest (channel : Fin 8) (samplesCode : Nat) (c : Calibration) : Request :=
  { channel := some channel, samples := 2 ^ samplesCode, hold := c.hold, done := 0, sum := 0,
    requester := .walker }

/-- Starts the gathering of a source that is not read at the start. -/
def Part.beginGathering (p : Part) (i : StationId) (w : MeasureWork) : Part :=
  match w.params.source with
  | .analog ch k =>
    (p.setWork i (.measure { w with gathering := .conversion })).setConv
      (·.place i (analogRequest ch k w.params.cal))
  | .freq m k g | .duty m k g =>
    (p.setWork i (.measure { w with gathering := .meter })).setAq i fun a =>
      { a with meters := put a.meters m (a.meters[m].arm k g p.rackTime) }
  | .edges k n =>
    (p.setWork i (.measure { w with gathering := .window })).setAq i fun a =>
      { a with window := some ⟨k, p.rackTime, n, 0⟩ }
  | .supplyI | .supplyV | .level _ | .lamp _ _ _ => p.setWork i (.measure w)

/-- The attempt interval, which acts as 1 ms at least for a source read at the start (R163). -/
def MeasureParams.pace (q : MeasureParams) : Nat :=
  if q.source.instant ∧ q.interval = 0 then 1 else q.interval

/-- Starts an attempt (R162, R163); a source read at the start is evaluated in the same event. -/
def Part.startAttempt (p : Part) (i : StationId) (w : MeasureWork) (traced : Bool) :
    Part × Option Result :=
  let w1 := { w with nextStart := p.after w.params.pace }
  match p.instantCount i w.params.source with
  | some c => p.settleLoop i w1 traced (evaluate w.params.cal w.params.window (p.station i).st c)
  | none => (p.beginGathering i w1, none)

/-- The settle timeout of the MEASURE being worked is due at this rack time (R165). -/
def Part.settleDue (p : Part) (i : StationId) (w : MeasureWork) : Bool :=
  match (p.station i).walker.active with
  | some t => decide (w.params.settle ≠ 0) && p.passed t.takeTime w.params.settle
  | none => false

/-- A raw datum has arrived and is evaluated; the next attempt follows in the same event if its start has
come (R163, R164). At the rack time at which the timeout expires the loop is left waiting for its next start,
which then comes or not by the order of the two events (R165). -/
def Part.arrive (p : Part) (i : StationId) (w : MeasureWork) (traced : Bool) (a : Attempt) :
    Part × Option Result :=
  match p.settleLoop i w traced a with
  | (p1, some r) => (p1, some r)
  | (p1, none) =>
    match (p1.station i).walker.work with
    | .measure w' =>
      if p1.reached w'.nextStart && !p1.settleDue i w' then p1.startAttempt i w' traced else (p1, none)
    | _ => (p1, none)

/-- The attempt state at the take (09 section 9.2). -/
def MeasureParams.begin (q : MeasureParams) (now : Time) : MeasureWork :=
  { params := q, attempts := 0, hits := 0, last := none, lastMiss := none, refSuspect := false,
    saturated := false, traceFull := false, gathering := .none, nextStart := now, expired := false }

/-! ### LISTEN attempts (R170) -/

/-- A good answer of the entry is evaluated; it moves the attempt state without the trace (R164, R170). -/
def ListenWork.good (w : ListenWork) (a : Attempt) (noise : Bool) : ListenWork :=
  { w with
    attempts := countUp 65535 w.attempts, last := some a, noise := w.noise || noise
    hits := if a.cls = .inWindow then w.hits + 1 else 0
    lastMiss := if a.cls = .inWindow then w.lastMiss else some (.attempt a.cls) }

/-- A bad completion is a miss with its frame result (R170). -/
def ListenWork.bad (w : ListenWork) (r : FrameResult) (noise : Bool) : ListenWork :=
  { w with attempts := countUp 65535 w.attempts, hits := 0, lastMiss := some (.frame r),
           noise := w.noise || noise }

/-- A FETCH completion reaches a LISTEN of its entry: the work after it, and PASS when hits reach H. -/
def ListenWork.hear (w : ListenWork) (image : Stimulus) (f : Frame) (r : FrameResult) :
    ListenWork × Option Result :=
  if r = .ok then
    let a := evaluate w.params.cal w.params.window image
      (fieldCount w.params.field (f.received.take f.length))
    let w1 := w.good a f.noise
    (w1, if w1.params.hits ≤ w1.hits then some (passResult w1.flags a w1.attempts w1.params.cal.unit)
         else none)
  else (w.bad r f.noise, none)

end Sys2Proof.Machine
end

