-- ==== Sys2Proof/Machine/Walker.lean ====
section
/-! DEFINITION. The station walker (02): taking a cell, its checks by kind, completion and chaining,
abandonment, halts, faults, CLEAR, and re-runs. -/

namespace Sys2Proof.Machine

/-! ### Writing a cell's results (R22, R27, R28) -/

/-- The result words but for step sequence, run number and take time, which stand as the take wrote them. The
attempts field takes the low 16 bits of a count that exceeds it (log 36). -/
def Part.writeResult (p : Part) (i : StationId) (t : Step) (r : Result) : Part :=
  let x := Config.cell i t.cell
  ((((p.poke32 (x + 36)
      (word4 r.verdict.code r.reason.code (r.flags.setWidth 8) ((r.flags >>> 8).setWidth 8)).toNat).poke32
    (x + 40) (s32Bits r.value)).poke32 (x + 44) (s32Bits r.aux)).poke16 (x + 48) r.attempts).poke32
    (x + 60) (p.since t.takeTime)

/-- The opening results of a take: zeros, take time, run number and step sequence (R22). -/
def Part.writeOpening (p : Part) (i : StationId) (c : CellId) (run seq : BitVec 16) : Part :=
  let x := Config.cell i c
  ((({ p with mem := p.mem.zero (x + 36) 28 }).poke16 (x + 50) seq.toNat).poke16 (x + 52)
    run.toNat).poke32 (x + 56) p.rackTime.toNat

/-- The step copy of a cell: kind, flags and tag of the state word, the eight parameter words (R22). -/
def Part.copyStep (p : Part) (i : StationId) (c : CellId) (counted : Bool) : Step :=
  let x := Config.cell i c
  { cell := c, kind := p.mem.read (x + 1), flags := p.mem.read (x + 2), tag := p.mem.read (x + 3),
    params := BitVec.ofNat 256 (p.mem.readLE (x + 4) 32), takeTime := p.rackTime, counted := counted,
    work := .none }

/-! ### Station states and the run record -/

def Part.setStationState (p : Part) (i : StationId) (st : StationState) : Part :=
  p.setWalker i fun w => { w with state := st }

/-- The station stops: hold reason and ATTN.STOP (R24, R31). -/
def Part.enterStopped (p : Part) (i : StationId) (r : Reason) : Part :=
  (p.setWalker i fun w => { w with state := .stopped, holdReason := r }).raise (.stop i)

/-- The first FAIL or ERROR of a run is kept as its first failing cell, reason and sequence (R29). -/
def RunRecord.firstFailing (v : RunRecord) (t : Step) (r : Result) (seq : BitVec 16) : RunRecord :=
  if v.firstCell = 255 then
    { v with firstCell := n8 t.cell.val, firstReason := r.reason.code, firstSeq := seq }
  else v

/-- A completion counted in the run (R29): one counter by its verdict, and the first failing fields. The
step sequence of a step in flight is the run's taken count (R22, R25). -/
def RunRecord.count (u : RunRecord) (t : Step) (r : Result) : RunRecord :=
  match r.verdict with
  | .none => { u with unjudged := u.unjudged + 1 }
  | .pass => { u with passed := u.passed + 1 }
  | .fail => ({ u with failed := u.failed + 1 }).firstFailing t r u.taken
  | .error => ({ u with errored := u.errored + 1 }).firstFailing t r u.taken

/-- A step counted in the run that is still open. -/
def Walker.counts (w : Walker) (t : Step) : Bool := t.counted && decide (w.run.state = .opened)

/-! ### Taking a cell (R21, R22, R24) -/

/-- The take of the READY cell at the position: the step copy, the opening results, the taken count and the
position. -/
def Part.takeStep (p : Part) (i : StationId) : Part × Step :=
  let w := (p.station i).walker
  let c := w.position
  let opened := decide (w.run.state = .opened)
  let t := p.copyStep i c opened
  let taken := w.run.taken + 1
  let p1 := (p.setCellState i c cellActive).writeOpening i c (if opened then w.run.number else 0)
    (if opened then taken else 0)
  (p1.setWalker i fun v =>
    { v with state := .busy, position := c + 1, current := some c, step := some t, holdReason := .ok,
             run := if opened then { v.run with taken := taken } else v.run }, t)

/-- The step goes on to wait on the operator: cell and station WAITING (R25). -/
def Part.beginWait (p : Part) (i : StationId) (t : Step) : Part :=
  (p.setCellState i t.cell cellWaiting).setStationState i .waiting

/-- The wait has ended while the step goes on: cell ACTIVE and station BUSY (R25). -/
def Part.endWait (p : Part) (i : StationId) (t : Step) : Part :=
  (p.setCellState i t.cell cellActive).setStationState i .busy

/-! ### BEGIN, END and the closing of runs (R41, R42, R43) -/

/-- Gives the run record new contents. -/
def Part.setRun (p : Part) (i : StationId) (f : RunRecord → RunRecord) : Part :=
  p.setWalker i fun w => { w with run := f w.run }

/-- The run number after a good BEGIN (R40): 65535 is followed by 1. -/
def nextRunNumber (n : BitVec 16) : BitVec 16 := if n = 65535 then 1 else n + 1

/-- The six counters at zero, as a good BEGIN has them before it counts itself (R41). -/
def RunRecord.zeroed (u : RunRecord) : RunRecord :=
  { u with taken := 0, passed := 0, failed := 0, errored := 0, unjudged := 0, abandoned := 0 }

/-- The record a good BEGIN opens (R41). -/
def RunRecord.openRun (u : RunRecord) (code : BitVec 6) (due : Bool) (now : Time) : RunRecord :=
  { state := .opened, number := nextRunNumber u.number, taken := 1, passed := 0, failed := 0,
    errored := 0, unjudged := 1, abandoned := 0, firstCell := 255, firstReason := 0, firstSeq := 0,
    fixtureCode := code.setWidth 8, serviceDue := bit due, startTime := now, endTime := 0,
    traceCount := 0, traceFull := 0 }

/-- BEGIN (R41). Its counters pass through zero, so that a counter that comes to 1 again is published (R20). -/
def Part.startBegin (p : Part) (i : StationId) (t : Step) : Part × Option Result :=
  let x := p.station i
  match beginParams t.params with
  | none => (p, some (.error .badParam))
  | some expected =>
    if x.walker.run.state = .opened then (p, some (.error .runOpen))
    else if x.fx.code = 63 then (p, some (.error .noFixture))
    else if expected.isSome ∧ expected ≠ some x.fx.code then (p, some (.error .wrongFixture))
    else
      let due := p.serviceDue x.fx.code.toNat
      let u := x.walker.run.openRun x.fx.code due p.rackTime
      let y := Config.cell i t.cell
      let p1 := p.passing i fun y => { y with walker := { y.walker with run := y.walker.run.zeroed } }
      ((((p1.setRun i fun _ => u).poke16 (y + 50) 1).poke16 (y + 52) u.number.toNat),
       some (.done (flagIf due resServiceDue) u.number.toNat x.fx.code.toNat))

/-- The closing state of END (R42). -/
def RunRecord.endState (u : RunRecord) : RunState :=
  if u.failed = 0 ∧ u.errored = 0 ∧ u.abandoned = 0 then .passed else .failed

/-- The closing state of a run that END did not reach (R43). -/
def RunRecord.closingState (u : RunRecord) : RunState :=
  if u.failed.toNat + u.errored.toNat > 0 then .failed else .aborted

/-- An OPEN run is closed by a CLEAR, a disable or the recovery (R43); any other record stays. -/
def Part.closeRun (p : Part) (i : StationId) : Part :=
  if (p.station i).walker.run.state = .opened then
    (p.setRun i fun u => { u with state := u.closingState, endTime := p.rackTime }).raise (.run i)
  else p

/-- A release handed to the fixture controller (R62): whether the fixture is OPEN already; a CLAMPED one
begins to open, an opening one is joined. -/
def Part.beginRelease (p : Part) (i : StationId) : Part × Bool :=
  match (p.station i).fx.state with
  | some .opened => (p, true)
  | some .clamped => (p.setFx i fun f => f.toOpening p.rackTime, false)
  | _ => (p, false)

/-- END (R42). -/
def Part.startEnd (p : Part) (i : StationId) (t : Step) : Part × Option Result :=
  let x := p.station i
  let u := x.walker.run
  if u.state = .opened then
    let p1 := (p.setWalker i fun w =>
      { w with run := { u with unjudged := u.unjudged + 1, state := u.endState, endTime := p.rackTime },
               step := w.step.map fun v => { v with counted := false } }).raise (.run i)
    let done := Result.done 0 u.taken.toNat u.endState.code.toNat
    if endReleases t.params then
      if x.ps.state = .off then
        match p1.beginRelease i with
        | (p2, true) => (p2, some done)
        | (p2, false) => (p2.setWork i (.endRelease u.taken.toNat u.endState.code.toNat), none)
      else (p1, some { done with reason := .supplyOn })
    else (p1, some done)
  else (p, some (.error .notInRun))

/-! ### WAIT, CLAMP, RELEASE, CONTACT (R45, R56, R62, R68) -/

/-- WAIT (R45). -/
def Part.startWait (p : Part) (i : StationId) (t : Step) : Part × Option Result :=
  match waitParams t.params with
  | none => (p, some (.error .badParam))
  | some d => (p.setWork i (.wait d), none)

/-- The number of the fixture record the captured code names; a CLAMPED fixture always has one (log 18). -/
def Fixture.record (f : Fixture) : Nat := f.captured.elim 63 BitVec.toNat

/-- CLAMP (R55, R56). -/
def Part.startClamp (p : Part) (i : StationId) (t : Step) : Part × Option Result :=
  let f := (p.station i).fx
  match clampParams t.params with
  | none => (p, some (.error .badParam))
  | some hands =>
    if f.state ≠ some .opened then (p, some (.error .notClamped))
    else if f.levels.nest = false then (p, some (.error .noPart))
    else if f.code = 63 then (p, some (.error .noFixture))
    else if f.levels.guard = false then (p, some (.fail .interlock 0 0 0))
    else
      let travel := p.travelTimeout f.code.toNat
      let limited := decide (clampNat 100 5000 travel ≠ travel)
      let p1 := p.setWork i (.clamp limited)
      match hands with
      | none => (p1.setFx i fun g => (g.capture travel).toClosing p.rackTime false, none)
      | some seconds =>
        ((p1.setFx i fun g => (g.capture travel).toArming p.rackTime (1000 * seconds)).beginWait i t,
         none)

/-- What a RELEASE leaves when the fixture is OPEN (R62). -/
def Part.releaseResult (p : Part) (i : StationId) (t : Step) : Result :=
  .done 0 (p.since t.takeTime) (p.station i).fx.capturedNumber

/-- RELEASE (R62). -/
def Part.startRelease (p : Part) (i : StationId) (t : Step) : Part × Option Result :=
  if (p.station i).ps.state = .off then
    match p.beginRelease i with
    | (p1, true) => (p1, some (p1.releaseResult i t))
    | (p1, false) => (p1.setWork i .release, none)
  else (p, some (.error .supplyOn))

/-- CONTACT (R68, R69). -/
def Part.startContact (p : Part) (i : StationId) : Part × Option Result :=
  let x := p.station i
  let pins := p.contactPins x.fx.record
  if x.fx.state ≠ some .clamped then (p, some (.error .notClamped))
  else if x.ps.state ≠ .off then (p, some (.error .supplyOn))
  else if pins = 0 ∨ 32 < pins then (p, some (.error .badParam))
  else
    match p.calibration i 8 with
    | none => (p, some (.error .badParam))
    | some c =>
      let w : ContactWork :=
        { pins := pins, threshold := p.contactThreshold x.fx.record, cal := c, pin := 0, greatest := 0,
          greatestAt := 0, firstAbove := none, saturated := false }
      (((p.clearContacts i).setWork i (.contact w)).startPin i c 0, none)

/-! ### POWER and SET (R75 to R79, R89, R97, R100, R101) -/

/-- The result of a POWER ON (R77). -/
def Supply.powerResult (u : Supply) (limited : Bool) : Result :=
  .done (flagIf limited resLimited) u.commanded u.rampDuration

/-- POWER (R75 to R79). -/
def Part.startPower (p : Part) (i : StationId) (t : Step) : Part × Option Result :=
  let x := p.station i
  match powerParams t.params with
  | none => (p, some (.error .badParam))
  | some none => (p.supplyOff i, some (.done 0 (if x.ps.state = .off then 0 else x.ps.commanded) 0))
  | some (some n) =>
    if x.fx.state ≠ some .clamped then (p, some (.error .notClamped))
    else if x.fx.levels.nest = false then (p, some (.error .noPart))
    else if x.fx.levels.guard = false then (p, some (.error .interlock))
    else
      let u := x.ps.powerOn n p.rackTime
      let p1 := (p.setPs i fun _ => u).setLc i Line.supplyArrives
      if u.state = .on then (p1, some (u.powerResult n.limited))
      else (p1.setWork i (.power n.limited), none)

/-- A SET of a PG or LV ends at once, or waits for its ramp, or goes on without a step (R97). -/
def Part.workSet (p : Part) (i : StationId) (t : Step) (atOnce : Bool) (w : SetWork) :
    Part × Option Result :=
  if atOnce || hasFlag t.flags flagNoWait then (p, some w.result) else (p.setWork i (.set w), none)

/-- SET (R89). -/
def Part.startSet (p : Part) (i : StationId) (t : Step) : Part × Option Result :=
  let x := p.station i
  match setParams t.params with
  | none => (p, some (.error .badParam))
  | some q =>
    if x.ps.live = false then (p, some (.error .noSupply))
    else
      match q with
      | .pg k frequency duty idle rate start =>
        let (g, atOnce, w) := x.st.pg[k].set p.rackTime frequency duty idle rate start
        ((p.passing i fun y => { y with st := y.st.takeOff (.pg k) start }).setSt i fun s =>
          { s with pg := put s.pg k g }).workSet i t atOnce { w with channel := .pg k }
      | .lv k ohms rate start =>
        let (v, atOnce, w) := x.st.lv[k].set p.rackTime ohms rate start
        ((p.passing i fun y => { y with st := y.st.takeOff (.lv k) start }).setSt i fun s =>
          { s with lv := put s.lv k v }).workSet i t atOnce { w with channel := .lv k }
      | .dl mask bits =>
        let lines := dlAfter x.st.dl mask bits
        (p.setSt i fun s => { s with dl := lines }, some (.done 0 lines.toNat mask.toNat))
      | .mv k value =>
        (p.setSt i fun s => { s with mv := put s.mv k value }, some (.done 0 value.toInt 0))

/-! ### SEND (R124 to R127) -/

/-- The result of a SEND START at its load (R125). -/
def startResult (enabled clamped : Nat) : Result :=
  .done (flagIf (decide (clamped ≠ 0)) resLimited) enabled clamped

/-- SEND START (R125): the table is read now, and loaded now or when the frame in progress ends. -/
def Part.sendStart (p : Part) (i : StationId) : Part × Option Result :=
  let table := p.readTable i
  match firstInvalid table with
  | some e => (p, some { Result.error .badParam with aux := e.val })
  | none =>
    let enabled := table.toList.countP Entry.enabled
    let clamped := table.toList.countP Entry.clamps
    let copy := mapEach Entry.loaded table
    if (p.station i).lc.busy then
      ((p.setLc i fun l => { l with pendingReload := some copy, pendingStop := false }).setWork i
        (.sendStart enabled clamped), none)
    else (p.loadSchedule i copy, some (startResult enabled clamped))

/-- SEND STOP (R126). -/
def Part.sendStop (p : Part) (i : StationId) : Part × Option Result :=
  let l := (p.station i).lc
  if l.state = .quiet then (p, some (.done 0 0 0))
  else if l.busy then
    ((p.setLc i fun l' => { l'.clear with pendingStop := true, pendingReload := none }).setWork i
      (.sendStop l.due.length), none)
  else
    (p.setLc i fun l' => { l'.clear with state := .quiet, gap := false }, some (.done 0 l.due.length 0))

/-- SEND ONCE (R124 step 5, R127). -/
def Part.sendOnce (p : Part) (i : StationId) (e : Fin 16) : Part × Option Result :=
  let l := (p.station i).lc
  match l.schedule with
  | none => (p, some (.error .lineError))
  | some table =>
    if table[e].valid then
      (((p.setWork i (.sendOnce e false)).joinDue i e p.rackTime).startFrame i, none)
    else (p, some (.error .badParam))

/-- SEND (R124). -/
def Part.startSend (p : Part) (i : StationId) (t : Step) : Part × Option Result :=
  match sendParams t.params with
  | none => (p, some (.error .badParam))
  | some a =>
    if (p.station i).ps.live then
      match a with
      | .start => p.sendStart i
      | .stop => p.sendStop i
      | .once e => p.sendOnce i e
    else (p, some (.error .noSupply))

/-! ### MEASURE, LISTEN, PROMPT (R161, R169, R177) -/

/-- The step copy has TRACE set. -/
def Step.traced (t : Step) : Bool := hasFlag t.flags flagTrace

/-- A MEASURE whose parameters have passed: the lamp head check of R161 step 7, held while the head's
identity read has not ended (R196), and the first attempt. -/
def Part.admitMeasure (p : Part) (i : StationId) (t : Step) (q : MeasureParams) : Part × Option Result :=
  match q.source with
  | .lamp r c _ =>
    let h := (p.station i).aq.head
    if h.pending then (p.setWork i (.measureHeld q), none)
    else if h.present = false then (p, some (.error .noHead))
    else if h.rows ≤ r ∨ h.columns ≤ c then (p, some (.error .badParam))
    else p.startAttempt i (q.begin p.rackTime) t.traced
  | .analog _ _ | .supplyI | .supplyV | .freq _ _ _ | .duty _ _ _ | .edges _ _ | .level _ =>
    p.startAttempt i (q.begin p.rackTime) t.traced

/-- MEASURE (R161). -/
def Part.startMeasure (p : Part) (i : StationId) (t : Step) : Part × Option Result :=
  match p.measureParams i t.params with
  | none => (p, some (.error .badParam))
  | some q => p.admitMeasure i t q

/-- The entry a LISTEN checks: of the loaded schedule while the line is SYNCING or RUNNING, else of the
table (R169 step 5; a running line whose schedule a STOP has cleared: log 18). -/
def Part.listenEntry (p : Part) (i : StationId) (e : Fin 16) : Entry :=
  match (p.station i).lc.schedule with
  | some table => table[e]
  | none => p.readEntry i e

/-- LISTEN (R169). -/
def Part.startListen (p : Part) (i : StationId) (t : Step) : Part × Option Result :=
  match listenParams t.params with
  | none => (p, some (.error .badParam))
  | some q =>
    let e := p.listenEntry i q.entry
    if e.direction = 1 ∧ q.field.offset + q.field.width ≤ e.length then
      (p.setWork i (.listen
        { params := q, sequence := (p.station i).lc.reception[q.entry].sequence, attempts := 0, hits := 0,
          last := none, lastMiss := none, noise := false }), none)
    else (p, some (.error .badParam))

/-- PROMPT (R177). -/
def Part.startPrompt (p : Part) (i : StationId) (t : Step) : Part × Option Result :=
  match promptParams t.params with
  | none => (p, some (.error .badParam))
  | some q =>
    let run := (p.station i).walker.run
    let e := p.promptEntry i t.cell (if run.state = .opened then run.number else 0) q
    (((p.setWork i .prompt).placeEntry e).beginWait i t, none)

/-! ### The checks of a step, and its work (R23) -/

/-- The checks of a step just taken, in order, and the start of its work: a result if it ends at once. -/
def Part.startStep (p : Part) (i : StationId) (t : Step) : Part × Option Result :=
  match Kind.ofCode t.kind with
  | none => (p, some (.error .badKind))
  | some .begin => p.startBegin i t
  | some .finish => p.startEnd i t
  | some .wait => p.startWait i t
  | some .clamp => p.startClamp i t
  | some .release => p.startRelease i t
  | some .contact => p.startContact i
  | some .power => p.startPower i t
  | some .set => p.startSet i t
  | some .send => p.startSend i t
  | some .measure => p.startMeasure i t
  | some .listen => p.startListen i t
  | some .prompt => p.startPrompt i t

/-! ### Completion and chaining (R28 to R31) -/

/-- The kind yields the station's last value (R30). -/
def Step.yieldsValue (t : Step) : Bool :=
  decide (Kind.ofCode t.kind = some .measure) || decide (Kind.ofCode t.kind = some .listen) ||
    decide (Kind.ofCode t.kind = some .contact)

/-- The verdict is PASS or FAIL. -/
def Verdict.judged : Verdict → Bool
  | .pass | .fail => true
  | .none | .error => false

/-- The walker after a completion, before its next state is chosen (R28, steps 3 and 4). -/
def Walker.afterCompletion (w : Walker) (t : Step) (r : Result) : Walker :=
  let judged := t.yieldsValue && r.verdict.judged
  { w with step := none, current := none,
           run := if w.counts t then w.run.count t r else w.run,
           lastValue := if judged then r.value else w.lastValue,
           lastUnit := if judged then r.unit else w.lastUnit }

/-- Raises ATTN.CELL if the step copy has NOTIFY set. -/
def Part.notify (p : Part) (i : StationId) (t : Step) : Part :=
  if hasFlag t.flags flagNotify then p.raise (.cell i) else p

/-- A completion but for the choice of the next state (R28, steps 1 to 5). -/
def Part.completeMain (p : Part) (i : StationId) (t : Step) (r : Result) : Part :=
  (((p.writeResult i t r).setCellState i t.cell cellDone).setWalker i
    fun w => w.afterCompletion t r).notify i t

/-- A completion stops the station (R31): an ERROR, a FAIL with STOPFAIL, a FAIL OPERATOR_STOP. -/
def Result.stops (r : Result) (flags : Byte) : Bool :=
  match r.verdict with
  | .error => true
  | .fail => hasFlag flags flagStopFail || decide (r.reason = .operatorStop)
  | .none | .pass => false

/-- The station is IDLE at its position. -/
def Part.becomeIdle (p : Part) (i : StationId) : Part :=
  p.setWalker i fun w => { w with state := .idle, holdReason := .ok }

/-- The examination of the cell at the position (R21, R24), and of the cells that follow while steps
complete at their takes (R31). A ring of 32 cells has at most 32 READY ones, so that 33 examinations
suffice. -/
def Part.examine : Nat → Part → StationId → Part
  | 0, p, i => p.becomeIdle i
  | fuel + 1, p, i =>
    let w := (p.station i).walker
    if w.run.state = .opened ∧ w.run.taken = 65535 then p.enterStopped i .runOpen
    else if p.cellState i w.position = cellReady then
      match p.takeStep i with
      | (p1, t) =>
        match p1.startStep i t with
        | (p2, none) => p2
        | (p2, some r) =>
          let t' := (p2.station i).walker.step.getD t
          let p3 := p2.completeMain i t' r
          if r.stops t'.flags then p3.enterStopped i r.reason else Part.examine fuel p3 i
    else p.becomeIdle i

/-- The examinations of one event. -/
def Part.chain (p : Part) (i : StationId) : Part := Part.examine 33 p i

/-- The station's step in flight completes (R28, R31). -/
def Part.completeStep (p : Part) (i : StationId) (r : Result) : Part :=
  match (p.station i).walker.step with
  | none => p
  | some t =>
    let p1 := p.completeMain i t r
    if r.stops t.flags then p1.enterStopped i r.reason else p1.chain i

/-- The end of a re-run (R46, R187). -/
def Part.rerunEnd (p : Part) (i : StationId) (t : Step) (r : Result) : Part :=
  ((((p.writeResult i t r).setCellState i t.cell cellDone).notify i t).setWalker i fun w =>
      { w with rerun := none, rerunCell := none }).changePrompt i fun e =>
    { e with repeatCount := e.repeatCount + 1, rerun := false }

/-- The step being worked ends with a result: the re-run's if one is in flight. -/
def Part.finish (p : Part) (i : StationId) (r : Result) : Part :=
  match (p.station i).walker.rerun with
  | some t => p.rerunEnd i t r
  | none => p.completeStep i r

/-- The outcome of an operation that may have ended the step being worked. -/
def Part.conclude (i : StationId) (o : Part × Option Result) : Part :=
  match o with
  | (p, none) => p
  | (p, some r) => p.finish i r

/-! ### Abandonment (R32) -/

/-- What abandons a step. -/
inductive AbandonCause where
  | halted
  | fault (reason : FaultReason)
  | disabled
  | repeatStop
deriving DecidableEq, Repr

/-- The reason an abandonment writes (R26). -/
def AbandonCause.reason : AbandonCause → Reason
  | .halted => .halted
  | .fault r => r.reason
  | .disabled => .disabled
  | .repeatStop => .operatorStop

/-- The cause is a fault, so that a notice takes the prompt's place (R184). -/
def AbandonCause.isFault : AbandonCause → Bool
  | .fault _ => true
  | .halted | .disabled | .repeatStop => false

/-- The fixture controller drops a CLAMP (R58, R60): an ARMING fixture returns to OPEN, a CLOSING one
reverses unless the rack is being disabled (R54). -/
def Fixture.dropClamp (f : Fixture) (cause : AbandonCause) (now : Time) : Fixture :=
  match f.state with
  | some .arming => f.toOpen
  | some .closing => if cause = .disabled then f else f.toOpening now
  | _ => f

/-- The acquisition unit drops what it held for the station's step (R134, R140, R144). -/
def Part.dropAcquisition (p : Part) (i : StationId) : Part :=
  (p.setConv (·.withdraw i)).setAq i fun a => { a.disarmAll with window := none }

/-- The blocks drop a step (R32 step 1), and what its cell is to hold beside the verdict NONE: flags,
value, auxiliary value and attempts. A SEND START still pending gives the LIMITED of its clamped periods (R27, R125;
log 37). -/
def Part.dropWork (p : Part) (i : StationId) (k : Work) (cause : AbandonCause) : Part × Result :=
  let gone := fun (flags : BitVec 16) (value aux : Int) (attempts : Nat) =>
    ({ verdict := .none, reason := cause.reason, flags := flags, value := value, aux := aux,
       attempts := attempts, unit := 0 } : Result)
  let x := p.station i
  match k with
  | .none | .wait _ | .release | .endRelease _ _ | .sendStop _ | .sendOnce _ _ | .measureHeld _ =>
    (p, gone 0 0 0 0)
  | .sendStart _ clamped => (p, gone (flagIf (decide (clamped ≠ 0)) resLimited) 0 0 0)
  | .clamp limited due =>
    (p.setFx i fun f => f.dropClamp cause p.rackTime,
     gone (flagIf limited resLimited ||| flagIf due resServiceDue) 0 0 0)
  | .contact w =>
    ((p.setFx i Fixture.contactOff).setConv (·.withdraw i),
     gone (flagIf w.saturated resSaturated) 0 0 w.pin)
  | .power limited => (p, gone (flagIf limited resLimited) x.ps.commanded x.ps.rampDuration 0)
  | .set w =>
    (p.setSt i fun s => s.haltChannel w.channel,
     gone (flagIf w.limited resLimited) (x.st.present w.channel) w.target w.steps)
  | .measure w =>
    (p.dropAcquisition i, gone w.flags (w.last.elim 0 Attempt.value) (w.last.elim 0 Attempt.judged)
      w.attempts)
  | .listen w =>
    (p, gone w.flags (w.last.elim 0 Attempt.value) (w.last.elim 0 Attempt.judged) w.attempts)
  | .prompt =>
    let e := p.panel.promptOf i
    (p.withdrawPrompt i cause.isFault, gone 0 0 (e.elim 0 (·.shown)) (e.elim 0 (·.repeatCount)))

/-- The cell of an abandoned step (R32, steps 2 and 3). -/
def Part.abandonCell (p : Part) (i : StationId) (t : Step) (r : Result) : Part :=
  (p.writeResult i t r).setCellState i t.cell cellAbandoned

/-- A re-run in flight is abandoned (R46, R188). -/
def Part.abandonRerun (p : Part) (i : StationId) (cause : AbandonCause) : Part :=
  match (p.station i).walker.rerun with
  | none => p
  | some t =>
    match p.dropWork i t.work cause with
    | (p1, r) => (p1.abandonCell i t r).setWalker i fun w => { w with rerun := none, rerunCell := none }

/-- The walker after an abandonment (R32 step 4). -/
def Walker.afterAbandonment (w : Walker) (t : Step) : Walker :=
  { w with step := none, current := none,
           run := if w.counts t then { w.run with abandoned := w.run.abandoned + 1 } else w.run }

/-- The station's step in flight is abandoned, its re-run first (R32, R46). -/
def Part.abandonStep (p : Part) (i : StationId) (cause : AbandonCause) : Part :=
  let p0 := p.abandonRerun i cause
  match (p0.station i).walker.step with
  | none => p0
  | some t =>
    match p0.dropWork i t.work cause with
    | (p1, r) => (p1.abandonCell i t r).setWalker i fun w => w.afterAbandonment t

/-! ### Faults, halts, CLEAR and sweeps (R17, R33 to R39) -/

/-- A fault report reaches the walker (R38); at the entry to FAULTED the notice is placed (R184). -/
def Part.faultReport (p : Part) (i : StationId) (r : FaultReason) : Part :=
  match (p.station i).walker.state with
  | .off => p
  | .faulted => p.raise (.fault i)
  | .idle | .busy | .waiting | .stopped =>
    (((p.abandonStep i (.fault r)).setWalker i fun w =>
      { w with state := .faulted, holdReason := r.reason }).raise (.fault i)).placeEntry
      (noticeEntry i r)

/-- The halt notice at the station's blocks (R34). -/
def Part.haltNotice (p : Part) (i : StationId) : Part :=
  p.modify i fun x => { x with st := x.st.halt, ps := x.ps.halt, fx := x.fx.halt p.rackTime }

/-- A HALT request reaches a station (R33). -/
def Part.halt (p : Part) (i : StationId) : Part :=
  match (p.station i).walker.state with
  | .off | .stopped | .faulted => p
  | .idle | .busy | .waiting =>
    ((p.abandonStep i .halted).setWalker i fun w =>
      { w with state := .stopped, holdReason := .halted }).haltNotice i

/-- The standing conditions of a FAULTED station's CLEAR (R37). -/
def Fixture.clearable (f : Fixture) : Bool :=
  f.levels.guard && !(decide (f.state = some .jammed) && !f.levels.opened)

/-- A CLEAR that is carried out (R36, R37). -/
def Part.clearStation (p : Part) (i : StationId) (faulted : Bool) : Part :=
  let p1 := ((p.supplyOff i).closeRun i).becomeIdle i
  (if faulted then p1.removeNotice i else p1).chain i

/-- A CLEAR request reaches a station (R36, R37). -/
def Part.clear (p : Part) (i : StationId) : Part :=
  match (p.station i).walker.state with
  | .off | .idle | .busy | .waiting => p
  | .stopped => p.clearStation i false
  | .faulted => if (p.station i).fx.clearable then p.clearStation i true else p

/-- A sweep reaches all four stations; the IDLE ones examine the cell at their position (R17). -/
def Part.sweep (p : Part) : Part :=
  p.eachStation fun i q => if (q.station i).walker.state = .idle then q.chain i else q

/-! ### Re-runs (R46, R186) -/

/-- The cell a prompt's repeat offset names. -/
def PanelEntry.target (e : PanelEntry) : CellId :=
  ⟨(e.cell.val + 32 - e.repeatOffset) % 32, Nat.mod_lt _ (by decide)⟩

/-- The conditions of an honoured REPEAT (R186). -/
def Part.repeatAllowed (p : Part) (e : PanelEntry) : Bool :=
  let x := Config.cell e.station e.target
  let kind := Kind.ofCode (p.mem.read (x + 1))
  decide (1 ≤ e.repeatOffset) && decide (e.repeatOffset ≤ 4) && decide (e.repeatCount < 3) &&
    decide (p.cellState e.station e.target = cellDone) &&
    (decide (kind = some .set) || decide (kind = some .send) || decide (kind = some .wait)) &&
    decide (p.mem.read (x + 36) = Verdict.none.code) && decide (p.u16 (x + 52) = e.runNumber.toNat)

/-- The re-take of a DONE cell for a REPEAT (R46): run number and step sequence keep their values. A prompt
whose remaining timeout has just reached 0 is paused with 1 ms (log 19). -/
def Part.rerunTake (p : Part) (e : PanelEntry) : Part :=
  let i := e.station
  let c := e.target
  let x := Config.cell i c
  let t := p.copyStep i c false
  let p1 := (p.changePrompt i fun v => { v.kept with rerun := true }).setCellState i c cellActive
  let p2 := (p1.writeOpening i c (BitVec.ofNat 16 (p.u16 (x + 52))) (BitVec.ofNat 16 (p.u16 (x + 50))))
    |>.setWalker i fun w => { w with rerun := some t, rerunCell := some c }
  Part.conclude i (p2.startStep i t)

/-- A press of REPEAT on a showing prompt with no re-run in flight (R186). -/
def Part.pressRepeat (p : Part) (e : PanelEntry) : Part :=
  if p.repeatAllowed e then p.rerunTake e else p.beep Config.shortBeep

end Sys2Proof.Machine
end

