-- ==== Sys2Proof/Machine/AcquisitionEvents.lean ====
section
/-! DEFINITION. The events of the acquisition unit (07): samples, input edges, meters, edge windows and the
lamp scanner. -/

namespace Sys2Proof.Machine

/-- The TRACE flag of the step being worked. -/
def Walker.traced (w : Walker) : Bool :=
  match w.active with
  | some t => t.traced
  | none => false

/-- A raw datum reaches the MEASURE being worked if it is gathering one of that sort (R162, R164); the datum
is judged as the attempt it gives. -/
def Part.datum (p : Part) (i : StationId) (g : Gathering) (refFlag : Bool)
    (judge : MeasureParams → Attempt) : Part :=
  match (p.station i).walker.work with
  | .measure w =>
    if w.gathering = g then
      Part.conclude i
        (p.arrive i { w with refSuspect := w.refSuspect || refFlag } (p.station i).walker.traced
          (judge w.params))
    else p
  | _ => p

/-! ### The converter (R133, R136) -/

/-- A finished CONTACT request (R70, R71): the pin's entry, then the next pin or the completion. -/
def Part.contactReturn (p : Part) (i : StationId) (sum : Nat) : Part :=
  match (p.station i).walker.work with
  | .contact w =>
    match pinResistance w.cal sum with
    | (v, sat) =>
      let w' := w.add v sat
      let p1 := (p.writeContact i w.pin v).setWork i (.contact w')
      if w'.pin < w.pins then p1.startPin i w.cal w'.pin
      else (p1.setFx i Fixture.contactOff).finish i w'.result
  | _ => p

/-- A request whose last sample has ended is handed to its requester (R133, R137, R151). -/
def Part.requestReturn (p : Part) (i : StationId) (q : Request) : Part :=
  match q.requester with
  | .fixture => p.contactReturn i q.sum
  | .walker =>
    p.datum i .conversion p.conv.refFlag fun m =>
      evaluate m.cal m.window (p.station i).st (analogCount q.sum q.samples m.cal.offset16)

/-- The code of a live sample goes to its request or its reference tap (R133, R136). -/
def Part.takeCode (p : Part) (x : SampleInput) (code : Nat) : Part :=
  match x with
  | .reference _ =>
    match p.conv.refCheck with
    | none => p
    | some r =>
      let r' := r.add code
      if r'.done < 32 then p.setConv fun c => { c with refCheck := some r' } else p.endCheck r'
  | .request i =>
    match p.conv.queue[i] with
    | none => p
    | some q =>
      let q' := q.add code
      if q'.done < q'.samples then p.setConv fun c => { c with queue := put c.queue i (some q') }
      else (p.setConv fun c => { c with queue := put c.queue i none }).requestReturn i q'

/-- A sample ends; the next grant is made when its code has been dealt with (R132, R133). -/
def Part.sampleEnds (p : Part) (microvolts : Int) : Part :=
  match p.conv.sample with
  | none => p
  | some x =>
    (if x.live then p.takeCode x.input (conversionCode microvolts) else p).setConv Converter.grant

/-! ### Inputs and meters (R138 to R144, R153) -/

/-- The attempt a closed meter measurement gives for a FREQ or DUTY (R153). -/
def MeasureParams.judgeMeter (m : MeasureParams) (image : Stimulus) (periods ticks high : Nat) : Attempt :=
  match m.source with
  | .duty _ _ _ => evaluate m.cal m.window image (dutyCount high ticks)
  | _ => evaluate m.cal m.window image (freqCount periods ticks)

/-- The two meters of a station. -/
def meterIds : List (Fin 2) := [0, 1]

/-- A meter sees a filtered edge of an input: the meter after it, and its counts if it is the edge that closes
a measurement. -/
def Meter.see (m : Meter) (k : Fin 8) (level : Bool) (tick : Tick) : Meter × Option (Nat × Nat × Nat) :=
  if m.input = k then m.edge level tick else (m, none)

/-- A closed measurement is published and handed to the walker (R143). -/
def Part.meterCloses (p : Part) (i : StationId) (n : Fin 2) (closed : Option (Nat × Nat × Nat)) : Part :=
  match closed with
  | none => p
  | some (periods, ticks, high) =>
    (p.mark i (meterMarks n)).datum i .meter false fun q =>
      q.judgeMeter (p.station i).st periods ticks high

/-- A filtered edge of an input: its monitor, the open window and both meters see it, and then a closed
measurement is handed over (R138 to R143); a meter that the walker arms in that same event waits for the next
edge (R142). -/
def Part.inputEdge (p : Part) (i : StationId) (k : Fin 8) (tick : Tick) : Part :=
  if (p.station i).walker.state = .off then p
  else
    let n := (p.station i).aq.inputs[k]
    let seen := fun m : Meter => m.see k n.level tick
    let p1 := p.setAq i fun a =>
      { a with inputs := put a.inputs k (n.edge p.rackTime), window := a.window.map fun w => w.edge k n,
               meters := mapEach (fun m => (seen m).1) a.meters }
    meterIds.foldl (fun q m => q.meterCloses i m (seen (p.station i).aq.meters[m]).2) p1

/-- An excursion is rejected by an input's filter (R138). -/
def Part.inputReject (p : Part) (i : StationId) (k : Fin 8) : Part :=
  if (p.station i).walker.state = .off then p
  else p.setAq i fun a => { a with inputs := put a.inputs k a.inputs[k].reject }

/-- An edge window closes and hands its count (R140). -/
def Part.windowEnds (p : Part) (i : StationId) : Part :=
  match (p.station i).aq.window with
  | some w =>
    if p.passed w.start w.length then
      (p.setAq i fun a => { a with window := none }).datum i .window false fun m =>
        evaluate m.cal m.window (p.station i).st w.count
    else p
  | none => p

/-- A meter's gate ends: COUNTING becomes CLOSING (R143). -/
def Meter.gateEnds (m : Meter) : Meter :=
  match m.state with
  | .counting => { m with state := .closing }
  | .idle | .armed | .closing => m

/-- A meter reaches its deadline: NO_SIGNAL, published and handed to the walker (R144). -/
def Part.meterExpires (p : Part) (i : StationId) (n : Fin 2) : Part :=
  let m := (p.station i).aq.meters[n]
  if m.state ≠ .idle ∧ p.meterDue m = true then
    ((p.setAq i fun a => { a with meters := put a.meters n m.noSignalEnd }).mark i (meterMarks n)).datum i .meter false fun q =>
      evaluateNoSignal q.window (p.station i).st
  else p

/-! ### The lamp scanner (R146 to R148) -/

/-- The identity read ends: the head is present or absent, a present one is scanned, and a LAMP MEASURE that
waited is checked (R146, R196). -/
def Part.identityRead (p : Part) (i : StationId) (identity : Byte) : Part :=
  if (p.station i).aq.head.pending then
    let found := decide (identity = Config.headIdentity)
    let p1 := p.setAq i fun a =>
      { a with head := { a.head with pending := false, present := found, scanning := found, row := 0 } }
    match (p1.station i).walker.active with
    | some t =>
      match t.work with
      | .measureHeld q => Part.conclude i (p1.admitMeasure i t q)
      | _ => p1
    | none => p1
  else p

/-- The eight column numbers. -/
def columnIds : List (Fin 8) := List.finRange 8

/-- A row's read ends: its cells are updated and the scan goes on (R147, R148). -/
def Part.rowUpdate (p : Part) (i : StationId) (readings : Vector Byte 8) : Part :=
  if (p.station i).aq.head.scanning then
    (columnIds.foldl (fun q c => q.updateLamp i c readings[c]) p).setAq i fun a =>
      { a with head := a.head.advance }
  else p

/-! ### The commands -/

/-- SAMPLE_END (R133). -/
def execSampleEnd (microvolts : Int) (s : State) : Answer := s.event fun p => p.sampleEnds microvolts

/-- INPUT_FILTERED_EDGE (R138). -/
def execInputFilteredEdge (station : StationId) (input : Fin 8) (tick : Tick) (s : State) : Answer :=
  s.event fun p => p.inputEdge station input tick

/-- INPUT_EXCURSION_REJECTED (R138). -/
def execInputExcursionRejected (station : StationId) (input : Fin 8) (s : State) : Answer :=
  s.event fun p => p.inputReject station input

/-- EDGE_WINDOW_CLOSE (R140). -/
def execEdgeWindowClose (station : StationId) (s : State) : Answer :=
  s.event fun p => p.windowEnds station

/-- METER_GATE_END (R143). -/
def execMeterGateEnd (station : StationId) (meter : Fin 2) (s : State) : Answer :=
  s.event fun p => p.setAq station fun a => { a with meters := put a.meters meter a.meters[meter].gateEnds }

/-- METER_DEADLINE (R144). -/
def execMeterDeadline (station : StationId) (meter : Fin 2) (s : State) : Answer :=
  s.event fun p => p.meterExpires station meter

/-- LAMP_IDENTITY_READ (R146). -/
def execLampIdentityRead (station : StationId) (identity : Byte) (s : State) : Answer :=
  s.event fun p => p.identityRead station identity

/-- LAMP_ROW_UPDATE (R148). -/
def execLampRowUpdate (station : StationId) (readings : Vector Byte 8) (s : State) : Answer :=
  s.event fun p => p.rowUpdate station readings

end Sys2Proof.Machine
end

