-- ==== Sys2Proof/Machine/FixtureEvents.lean ====
section
/-! DEFINITION. The events of the fixture controllers (03): debounced changes, fixture codes and timers. -/

namespace Sys2Proof.Machine

/-- The flags the CLAMP being worked has gathered, if one is (R55, R67). -/
def Work.clampFlags : Work → Option (BitVec 16)
  | .clamp limited due => some (flagIf limited resLimited ||| flagIf due resServiceDue)
  | _ => Option.none

/-- A CLAMP gathers SERVICE_DUE of a due count (R67). -/
def Work.gatherDue (due : Bool) : Work → Work
  | .clamp limited _ => .clamp limited due
  | k => k

/-- The CLAMP being worked ends with a FAIL: value, and the captured code or 0 (R58, R60). -/
def Part.failClamp (p : Part) (i : StationId) (r : Reason) (value aux : Nat) : Part :=
  match (p.station i).walker.work.clampFlags with
  | some flags => p.finish i (.fail r flags value aux)
  | none => p

/-- The travel time of the motion in progress (R59, R60). -/
def Part.travelTime (p : Part) (f : Fixture) : Nat := f.travelStart.elim 0 p.since

/-- A CLOSING fixture reverses and its CLAMP fails (R60). -/
def Part.reverse (p : Part) (i : StationId) (r : Reason) : Part :=
  let f := (p.station i).fx
  (p.setFx i fun g => g.toOpening p.rackTime).failClamp i r (p.travelTime f) f.capturedNumber

/-- An entry to CLAMPED (R59, R67): the cycle is counted, and a due count sets SERVICE_DUE among the CLAMP's
flags and the open run's service-due flag. R59 sets the run's flag after the CLAMP completes, and R28, R21 and R203
differ on whether the completion's chained examination comes before that. DESIGN CHOICE (log 18): the flag is set before
both, so that an END taken in the chain closes its run with it. -/
def Part.enterClamped (p : Part) (i : StationId) (record : Nat) : Part :=
  let p1 := (p.setFx i Fixture.toClamped).countCycle record
  let due := p1.serviceDue record
  let p2 :=
    if due && decide ((p1.station i).walker.run.state = .opened) then
      p1.setRun i fun u => { u with serviceDue := 1 }
    else p1
  p2.setWork i ((p2.station i).walker.work.gatherDue due)

/-- CLOSED reads true while CLOSING: CLAMPED, and the CLAMP complete, or the NO_PART fault of an empty nest,
which abandons it (R59, R67). -/
def Part.closedArrival (p : Part) (i : StationId) : Part :=
  let f := (p.station i).fx
  let p1 := p.enterClamped i f.record
  if f.levels.nest then
    match (p1.station i).walker.work.clampFlags with
    | none => p1
    | some flags => p1.finish i (.done flags (p.travelTime f) f.capturedNumber)
  else p1.faultReport i .noPart

/-- OPENED reads true while OPENING or JAMMED: OPEN, and a release in flight completes (R62, R63, R64). -/
def Part.openedArrival (p : Part) (i : StationId) : Part :=
  let p1 := p.setFx i Fixture.toOpen
  match (p1.station i).walker.active with
  | none => p1
  | some t =>
    match t.work with
    | .release => p1.finish i (p1.releaseResult i t)
    | .endRelease taken closing => p1.finish i (.done 0 taken closing)
    | _ => p1

/-- GUARD opens while CLAMPED: a live supply is cut and INTERLOCK reported (R65, R83). -/
def Part.guardCut (p : Part) (i : StationId) : Part :=
  if (p.station i).ps.live then (p.supplyLeave i .off).faultReport i .interlock else p

/-- NEST reads absent while CLAMPED: a live supply is cut and NO_PART reported all the same (R66, R83). -/
def Part.nestLoss (p : Part) (i : StationId) : Part := (p.supplyCut i).faultReport i .noPart

/-- An accepted two-hand start: CLOSING, the CLAMP's cell ACTIVE, station BUSY (R57). -/
def Part.handsAccepted (p : Part) (i : StationId) : Part :=
  let p1 := p.setFx i fun f => f.toClosing p.rackTime true
  match (p1.station i).walker.active with
  | none => p1
  | some t =>
    match t.work with
    | .clamp _ _ => p1.endWait i t
    | _ => p1

/-- A start button changes while ARMING (R57); the levels are those after the change. -/
def Part.armingButton (p : Part) (i : StationId) (held : Bool) : Part :=
  match (p.station i).fx.judgeHands held p.rackTime p.config.twoHandWindow with
  | (f, accepted) =>
    let p1 := p.setFx i fun _ => f
    if accepted then p1.handsAccepted i else p1

/-- What a debounced change does in the fixture's state (R52, R57 to R66): `input` now reads `level`. -/
def Part.fixtureOutcome (p : Part) (i : StationId) (input : FixtureInput) (level : Bool) : Part :=
  let f := (p.station i).fx
  match f.state, input, level with
  | some .arming, .startL, held => p.armingButton i held
  | some .arming, .startR, held => p.armingButton i held
  | some .arming, .guard, false => (p.setFx i Fixture.toOpen).failClamp i .interlock 0 0
  | some .closing, .closed, true => p.closedArrival i
  | some .closing, .startL, false => if f.twoHand then p.reverse i .operatorRelease else p
  | some .closing, .startR, false => if f.twoHand then p.reverse i .operatorRelease else p
  | some .closing, .guard, false => p.reverse i .interlock
  | some .clamped, .guard, false => p.guardCut i
  | some .clamped, .nest, false => p.nestLoss i
  | some .opening, .opened, true => p.openedArrival i
  | some .jammed, .opened, true => p.openedArrival i
  | _, _, _ => p

/-- A debounced level changes once its raw level has differed for the debounce time (R50); while the station is
OFF, as every station is while a reset lasts, no state machine takes it (R52, R54, log 3). -/
def Part.debounceChange (p : Part) (i : StationId) (input : FixtureInput) : Part :=
  if (p.station i).fx.inputDue p.config.fixtureDebounce input then
    let p1 := p.setFx i fun f => f.takeInput input
    if (p.station i).walker.state = .off then p1
    else p1.fixtureOutcome i input ((p1.station i).fx.levels.get input)
  else p

/-- The mounted code changes once the code bits have held the new one for the debounce time (R51). -/
def Part.codeChange (p : Part) (i : StationId) (code : BitVec 6) : Part :=
  if (p.station i).fx.codeDue p.config.fixtureDebounce code then p.setFx i fun f => f.takeCode code else p

/-- The two-hand timeout passes (R58). -/
def Part.handTimeout (p : Part) (i : StationId) : Part :=
  let f := (p.station i).fx
  match f.state, f.handTimer with
  | some .arming, some (t, ms) =>
    if p.passed t ms then (p.setFx i Fixture.toOpen).failClamp i .timeout 0 f.capturedNumber else p
  | _, _ => p

/-- A moving fixture becomes JAMMED and the fault is reported; one whose OPENED already reads true becomes
OPEN after that (R61, R63, R64). -/
def Part.jam (p : Part) (i : StationId) : Part :=
  let p1 := (p.setFx i Fixture.toJammed).faultReport i .jammed
  if (p1.station i).fx.levels.opened then p1.setFx i Fixture.toOpen else p1

/-- The travel timer expires (R61, R63). -/
def Part.travelExpiry (p : Part) (i : StationId) : Part :=
  let f := (p.station i).fx
  match f.state, f.travelStart with
  | some .closing, some t => if p.passed t f.travelTimeout then p.jam i else p
  | some .opening, some t => if p.passed t f.travelTimeout then p.jam i else p
  | _, _ => p

/-! ### The commands -/

/-- FIXTURE_DEBOUNCE_CHANGE (R50): the debouncers run on while a reset lasts (R52, log 3). -/
def execFixtureDebounceChange (station : StationId) (input : FixtureInput) (s : State) : Answer :=
  s.always fun p => p.debounceChange station input

/-- FIXTURE_CODE_CHANGE (R51): the code is followed while a reset lasts too (R52, log 3). -/
def execFixtureCodeChange (station : StationId) (code : BitVec 6) (s : State) : Answer :=
  s.always fun p => p.codeChange station code

/-- TWO_HAND_TIMEOUT (R58). -/
def execTwoHandTimeout (station : StationId) (s : State) : Answer :=
  s.event fun p => p.handTimeout station

/-- TRAVEL_TIMEOUT (R61, R63). -/
def execTravelTimeout (station : StationId) (s : State) : Answer :=
  s.event fun p => p.travelExpiry station

end Sys2Proof.Machine
end

