-- ==== Sys2Proof/Machine/Rack.lean ====
section
/-! DEFINITION. The rack as a whole (01 sections 1.3 and 1.6, 11): resets, enable with its validation and
recovery, disable, the sweep timer, rack time, and the RACKCTL write that carries three of them. -/

namespace Sys2Proof.Machine

/-! ### Resets (R47, R54, R74, R88, R114, R135, R141, R145, R176, R194, R199, R200) -/

/-- Writes the reset record whole: cause, enabled flag, in-flight mask (R200). -/
def Part.writeResetRecord (p : Part) (cause : ResetCause) (enabled : Bool) (mask : BitVec 4) : Part :=
  p.poke32 Config.resetRecord (word4 cause.code (bit enabled) (mask.setWidth 8) 0).toNat

/-- One bit for each station that is BUSY or WAITING (R47, R200). -/
def Part.inFlightMask (p : Part) : BitVec 4 :=
  stationIds.foldl
    (fun m i =>
      match (p.station i).walker.state with
      | .busy | .waiting => m ||| (1#4 <<< i.val)
      | .off | .idle | .stopped | .faulted => m)
    0

/-- A walker after a reset (R47): its step is dropped; run record, last value and unit are not written. -/
def Walker.afterReset (w : Walker) : Walker :=
  { Walker.reset with run := w.run, lastValue := w.lastValue, lastUnit := w.lastUnit,
                      startCell := w.startCell }

/-- A line controller after a reset (R114): nothing on the wire, no schedule, DORMANT. -/
def Line.afterReset (l : Line) : Line := { l.supplyLoss with stuckHeld := false }

/-- A station's part of the acquisition unit after a reset (R141, R145, R147): monitors, meters and scan
stopped. -/
def Monitors.afterReset (a : Monitors) : Monitors :=
  { a with window := none, meters := Vector.replicate 2 .reset,
           head := { a.head with pending := false, scanning := false } }

/-- A station column after a reset. -/
def Station.afterReset (x : Station) : Station :=
  { walker := x.walker.afterReset, fx := x.fx.afterReset, ps := .reset, st := .park,
    lc := x.lc.afterReset, aq := x.aq.afterReset }

/-- Every block at its reset state; memory, GUARDLOG's reader and the free values stand (R4, R199). -/
def Part.resetBlocks (p : Part) : Part :=
  { p with rackTime := 0, enabled := false, sweepRequested := false, sweepBase := none, attn := 0,
           attnMask := 0, attnPin := false, guardLog := .empty, config := .reset, conv := .reset,
           panel := .reset, stations := mapEach Station.afterReset p.stations }

/-- A reset of a part that runs (R199): the record is written, then every block takes its reset state. -/
def Part.resetRunning (p : Part) (cause : ResetCause) : Part :=
  (p.writeResetRecord cause p.enabled p.inFlightMask).resetBlocks

/-- The power-on reset: memory holds what the command brings, and a fresh record (R199, R200, log 2). -/
def Part.powerOn (p : Part) (contents : List Host.Cell) : Part :=
  ({ Part.reset with mem := Memory.ofCells contents, inReset := some .powerOn, portData := p.portData,
                     freeCount := p.freeCount } : Part).writeResetRecord .powerOn false 0

/-- The assertion of RESET#; during another reset only the cause changes (R200). -/
def Part.resetPin (p : Part) : Part :=
  let p1 :=
    match p.inReset with
    | none => p.resetRunning .pin
    | some _ => p.poke8 Config.resetRecord ResetCause.pin.code
  { p1 with inReset := some .pin }

/-- A soft reset begins; it lasts until its own work is done, which RESET_END tells (R199, log 21). -/
def Part.softReset (p : Part) : Part := { p.resetRunning .soft with inReset := some .soft }

/-! ### The configuration error record (R195) -/

/-- Writes the configuration error record; none stands for code 0, station 0, offset 0. -/
def Part.writeConfigError (p : Part) (e : Option ConfigError) : Part :=
  match e with
  | none => p.poke32 Config.configError 0
  | some e => p.poke32 Config.configError (word4 (n8 e.offset) (n8 (e.offset / 256)) (n8 e.station)
      (n8 e.code)).toNat

/-! ### Bringing a station up (R48, R196, R197) -/

/-- The run record as the header holds it; a run state code outside 0 to 4 gives the record of a header
never written (R48 step 1). -/
def Part.readRun (p : Part) (i : StationId) : RunRecord :=
  let x := Config.page i
  let b := fun n => p.mem.read (x + n)
  let h := fun n => BitVec.ofNat 16 (p.u16 (x + n))
  match RunState.ofCode (b 0x0C) with
  | none => .never
  | some st =>
    { state := st, serviceDue := b 0x0D, firstCell := b 0x0E, firstReason := b 0x0F, number := h 0x10,
      taken := h 0x12, passed := h 0x14, failed := h 0x16, errored := h 0x18, unjudged := h 0x1A,
      abandoned := h 0x1C, firstSeq := h 0x1E, fixtureCode := b 0x20, traceCount := b 0x21,
      traceFull := b 0x22, startTime := p.word (x + 0x24), endTime := p.word (x + 0x28) }

/-- The 32 cells of a ring in index order. -/
def cellIds : List CellId := List.finRange 32

/-- The recovery of one cell: one left ACTIVE or WAITING is abandoned with INTERRUPTED (R197). -/
def Part.recoverCell (p : Part) (i : StationId) (c : CellId) : Part :=
  let found := p.cellState i c
  if found = cellActive ∨ found = cellWaiting then
    let x := Config.cell i c
    (((p.poke8 (x + 36) Verdict.none.code).poke8 (x + 37) Reason.interrupted.code).poke32 (x + 60)
      0).setCellState i c cellAbandoned
  else p

/-- The recovery of a station's 32 cells. -/
def Part.recoverCells (p : Part) (i : StationId) : Part :=
  cellIds.foldl (fun q c => q.recoverCell i c) p

/-- An open record brought into agreement with the identity of R40 (R197). -/
def RunRecord.agree (u : RunRecord) : RunRecord :=
  let sum := u.passed.toNat + u.failed.toNat + u.errored.toNat + u.unjudged.toNat + u.abandoned.toNat
  if sum < u.taken.toNat then
    { u with abandoned := u.abandoned + BitVec.ofNat 16 (u.taken.toNat - sum) }
  else u

/-- Takes the run record from the header, settles an open one and closes it (R48 step 1, R197). -/
def Part.recoverRun (p : Part) (i : StationId) : Part :=
  let u := p.readRun i
  (p.setRun i fun _ => if u.state = .opened then u.agree else u).closeRun i

/-- The line controller at an enable (R114, R194). The mark of a line found stuck and not yet read recessive
is dropped with the rest (log 41). -/
def Part.enableLine (p : Part) (i : StationId) : Part :=
  let x := Config.stationConfig i
  let p1 := p.setLc i fun _ =>
    { Line.reset with divisor := p.u16 x, stopBits := p.u8 (x + 2), allowance := p.u8 (x + 3) }
  { p1 with mem := p1.mem.zero (Config.receptionEntry i 0) 512 }

/-- An input monitor at an enable (R141). -/
def Part.monitorFor (p : Part) (i : StationId) (levels : BitVec 8) (k : Fin 8) : InputMonitor :=
  let x := Config.stationConfig i
  { level := levels.getLsbD k.val, edges := 0, lastEdge := 0, rejected := 0,
    filter := p.u8 (x + 10 + k.val), edgeCode := p.u8 (x + 18 + k.val), changed := false }

/-- The lamp head at an enable: the configured matrix, its identity still to be read, its image zero
(R146, R194, log 22). -/
def Part.headFor (p : Part) (i : StationId) : LampHead :=
  let x := Config.stationConfig i
  { LampHead.reset with rows := p.u8 (x + 4), columns := p.u8 (x + 5), dwell := p.u8 (x + 6),
                        onLevel := p.u8 (x + 7), offLevel := p.u8 (x + 8), present := false,
                        pending := true, scanning := false, row := 0, frames := 0 }

/-- The monitors, meters and lamp head of a station at an enable (R141, R145, R146). -/
def Part.enableMonitors (p : Part) (i : StationId) (levels : BitVec 8) : Part :=
  let p1 := p.setAq i fun _ =>
    { inputs := Vector.ofFn (p.monitorFor i levels), window := none, meters := Vector.replicate 2 .reset,
      head := p.headFor i }
  let p2 := inputIds.foldl (fun q k => q.writeInput i k) p1
  { p2 with mem := p2.mem.zero (Config.lampRecord i 0) 512 }

/-- The walker at the end of its station's enable (R48, steps 3 and 4). -/
def Walker.enable (w : Walker) (start : CellId) : Walker :=
  { w with state := .idle, position := start, startCell := start, current := none, rerunCell := none,
           step := none, rerun := none, holdReason := .ok, lastValue := 0, lastUnit := 0 }

/-- The start cell of a station's configuration; validated to lie within 0 to 31. -/
def Part.startCell (p : Part) (i : StationId) : CellId :=
  ⟨p.u8 (Config.stationConfig i + 9) % 32, Nat.mod_lt _ (by decide)⟩

/-- One station is brought up (R196 part 2). -/
def Part.bringUp (p : Part) (raw : RawLevels) (i : StationId) : Part :=
  let p1 := (p.recoverCells i).recoverRun i
  let p2 := p1.setFx i fun f => f.enable p.rackTime
  let p3 := (p2.enableLine i).enableMonitors i raw.inputs[i]
  (p3.setWalker i fun w => w.enable (p.startCell i)).publishAll i

/-- The keys' debounced levels at an enable, from their raw levels (R176). -/
def keyLevels (keys : BitVec 4) : Vector Bool 4 := Vector.ofFn fun k => keys.getLsbD k.val

/-- The panel at an enable: empty, published, showing the idle text (R176, R191). -/
def Part.enablePanel (p : Part) (keys : BitVec 4) : Part :=
  (p.setPanel fun c => { Panel.reset with image := c.image, keys := keyLevels keys }).publishPanel.showIdle

/-- An enable that has passed validation (R196). -/
def Part.enable (p : Part) (raw : RawLevels) : Part :=
  let p1 := { p with enabled := true, config := p.readRackConfig }
  let p2 := p1.eachStation fun i q => if p1.config.mask.getLsbD i.val then q.bringUp raw i else q
  ((p2.setConv Converter.startCheck).writeReference 0 0 false).enablePanel raw.keys

/-- A write that sets ENABLE while it reads 0 (R195). -/
def Part.tryEnable (p : Part) (raw : RawLevels) : Part :=
  match p.validate with
  | some e => p.writeConfigError (some e)
  | none => (p.writeConfigError none).enable raw

/-! ### Disable (R198) -/

/-- A station that is not OFF is taken down. -/
def Part.takeDown (p : Part) (i : StationId) : Part :=
  if (p.station i).walker.state = .off then p
  else
    let p1 := ((p.supplyOff i).abandonStep i .disabled).closeRun i
    p1.modify i fun x =>
      { x with walker := { x.walker with state := .off, holdReason := .ok }, fx := x.fx.freeze,
               aq := { x.aq.disarmAll with
                       window := none, head := { x.aq.head with pending := false, scanning := false } } }

/-- The panel at a disable: emptied, published, and blank with the image written whatever it holds; the buzzer
silent, the keys' raw counts at 0 (R176, log 10). -/
def Part.disablePanel (p : Part) : Part :=
  ((p.setPanel fun c =>
    { c with showing := none, queue := [], buzzerEnd := none, image := none
             keyRaw := Vector.replicate 4 0 }).publishPanel).showText Panel.blank

/-- A write that clears ENABLE while it reads 1 (R198). -/
def Part.disable (p : Part) : Part :=
  let p1 := { p with enabled := false }.eachStation fun i q => q.takeDown i
  (p1.setConv Converter.stopCheck).disablePanel

/-! ### The RACKCTL write (R6, R15) -/

/-- The fields of a written RACKCTL. -/
def writtenEnable (v : Word) : Bool := v.getLsbD 0
def writtenMode (v : Word) : Bool := v.getLsbD 1
def writtenReset (v : Word) : Bool := v.getLsbD 2

/-- The sweep timer after a RACKCTL write (R15): it starts at an enable and when SWEEPMODE becomes 0. -/
def sweepTimer (before after : Part) (mode : Bool) : Option Time :=
  if !after.enabled || mode then none
  else if before.enabled && !before.sweepRequested then before.sweepBase
  else some before.rackTime

/-- A RACKCTL write without SOFTRESET (R6). -/
def Part.writeControl (p : Part) (v : Word) (raw : RawLevels) : Part :=
  let p1 :=
    if writtenEnable v && !p.enabled then p.tryEnable raw
    else if !writtenEnable v && p.enabled then p.disable
    else p
  { p1 with sweepRequested := writtenMode v, sweepBase := sweepTimer p p1 (writtenMode v) }

/-- A RACKCTL write as an event of the part; a soft reset publishes nothing (R6, R47, R54). -/
def Part.rackctlWrite (p : Part) (v : Word) (raw : RawLevels) : Part :=
  if p.inReset.isSome then p
  else if writtenReset v then p.softReset.settle
  else Part.commit p (p.writeControl v raw)

/-- The filtered levels of a station's observed inputs, IN0 in bit 0. -/
def Station.heldInputs (x : Station) : BitVec 8 :=
  inputIds.foldl (fun b k => b ||| ((if x.aq.inputs[k].level then 1 else 0 : BitVec 8) <<< k.val)) 0

/-- The levels a write that carries none takes an enable with: those now held (log 29). -/
def Part.heldLevels (p : Part) : RawLevels :=
  { keys := (List.finRange 4).foldl
      (fun b k => b ||| ((if p.panel.keys[k] then 1 else 0 : BitVec 4) <<< k.val)) 0
    inputs := mapEach Station.heldInputs p.stations }

/-! ### Rack time and the sweep timer (R5, R15, R139, R180) -/

/-- The raw counts of the keys at an increment of rack time: those of an enabled rack count (R174), those of a
disabled one stand at 0 (log 10). -/
def Part.countKeys (p : Part) (keys : RawMs 4) : Vector Nat 4 :=
  Vector.ofFn fun k => if p.enabled then rawCount keys p.config.panelDebounce k p.panel.keyRaw[k] else 0

/-- The fixture debouncers of every station count a ms, whatever the station's state (R50 to R52). -/
def Part.countFixtures (p : Part) (fixtures : Vector FixtureRaw 4) : Part :=
  p.eachStation fun i q => q.setFx i fun f => f.countRaw p.config.fixtureDebounce fixtures[i]

/-- One millisecond: the input statistics of the millisecond that ends are written, rack time increments,
the showing prompt and the key debouncers count. -/
def Part.tick (p : Part) (keys : RawMs 4) : Part :=
  let p1 := p.eachStation fun i q => if (q.station i).walker.state = .off then q else q.writeInputs i
  { p1 with rackTime := p1.rackTime + 1,
            panel := { p1.panel with showing := p1.panel.showing.map PanelEntry.tick,
                                     keyRaw := p.countKeys keys } }

/-- A ms of the timebase: the fixture debouncers run through a reset, and nothing else does (R52, R199, log 3). -/
def Part.rackTick (p : Part) (keys : RawMs 4) (fixtures : Vector FixtureRaw 4) : Part :=
  let p1 := p.countFixtures fixtures
  if p.inReset.isSome then p1 else p1.tick keys

/-- The sweep interval has passed: a sweep, and the timer counts anew (R15). -/
def Part.periodicSweep (p : Part) : Part :=
  match p.sweepBase with
  | some t =>
    if p.passed t p.config.sweepInterval then { p with sweepBase := some p.rackTime }.sweep else p
  | none => p

/-- The end of a reset, whichever was its cause: RACKTIME counts from 0 from here (R5, R199). -/
def Part.endReset (p : Part) : Part :=
  if p.inReset.isSome then { p with inReset := none, rackTime := 0 } else p

/-! ### The commands -/

/-- POWER_ON_RESET (R199). -/
def execPowerOnReset (contents : List Host.Cell) (s : State) : Answer :=
  .next { s with part := s.part.powerOn contents }

/-- RESET_PIN_ASSERTED (R199). -/
def execResetPinAsserted (s : State) : Answer := .next { s with part := s.part.resetPin }

/-- SOFT_RESET (R6). -/
def execSoftReset (value : Word) (s : State) : Answer :=
  .next { s with part := s.part.rackctlWrite value s.part.heldLevels }

/-- RACK_ENABLE (R6, R195, R196). -/
def execRackEnable (value : Word) (raw : RawLevels) (s : State) : Answer :=
  .next { s with part := s.part.rackctlWrite value raw }

/-- RACK_DISABLE (R6, R198). -/
def execRackDisable (value : Word) (s : State) : Answer :=
  .next { s with part := s.part.rackctlWrite value s.part.heldLevels }

/-- SWEEPMODE_WRITE (R6, R15). -/
def execSweepmodeWrite (value : Word) (s : State) : Answer :=
  .next { s with part := s.part.rackctlWrite value s.part.heldLevels }

/-- SWEEP_WRITE (R16): whatever the value, one sweep; none while the rack is disabled. -/
def execSweepWrite (_value : Word) (s : State) : Answer :=
  s.event fun p => if p.enabled then p.sweep else p

/-- PERIODIC_SWEEP (R15, R17). -/
def execPeriodicSweep (s : State) : Answer := s.event Part.periodicSweep

/-- RACK_TIME_TICK (R5, R50, R51, R139, R174, R180). -/
def execRackTimeTick (s : State) (keys : RawMs 4 := .quiet)
    (fixtures : Vector FixtureRaw 4 := Vector.replicate 4 .quiet) : Answer :=
  s.always fun p => p.rackTick keys fixtures

/-- RESET_END (R4, R5, R199). -/
def execResetEnd (s : State) : Answer := .next { s with part := s.part.endReset }

end Sys2Proof.Machine
end

