-- ==== Sys2Proof/Machine/HostPort.lean ====
section
/-! DEFINITION. The host's accesses to the window (01): plain memory, guarded cell state words and the
registers, and the commands that are such accesses. -/

namespace Sys2Proof.Machine

/-- A station's bit of a field of a written word, the field starting at bit `low`. -/
def stationBit (v : Word) (low : Nat) (i : StationId) : Bool := v.getLsbD (low + i.val)

/-- A write to STNCTL: each station's HALT before its CLEAR (R7); stations in order (log 5). -/
def Part.writeStnctl (p : Part) (v : Word) : Part :=
  p.eachStation fun i q =>
    let q1 := if stationBit v 0 i then q.halt i else q
    if stationBit v 4 i then q1.clear i else q1

/-- A write to ATTN clears the causes written as 1 (R18). -/
def Part.writeAttn (p : Part) (v : Word) : Part := { p with attn := p.attn &&& ~~~(v.setWidth 22) }

/-- A write to ATTNMASK stores all 22 bits (R19). -/
def Part.writeAttnMask (p : Part) (v : Word) : Part := { p with attnMask := v.setWidth 22 }

/-- A write to SWEEP raises a sweep while the rack is enabled (R16). -/
def Part.writeSweep (p : Part) : Part := if p.enabled then p.sweep else p

/-- A host write to a register, as an event of the part (R4, R6, R7, R16, R18, R19). -/
def Part.writeRegister (p : Part) (r : Register) (v : Word) : Part :=
  match r with
  | .ident | .racktime | .guardlog => p.take fun q => q
  | .rackctl => p.rackctlWrite v p.heldLevels
  | .sweep => p.take fun q => q.writeSweep
  | .stnctl => p.take fun q => q.writeStnctl v
  | .attn => p.take fun q => q.writeAttn v
  | .attnmask => p.take fun q => q.writeAttnMask v

/-- A host write to a cell state word meets the guard (R9, R11). -/
def Part.guardedWrite (p : Part) (i : StationId) (c : CellId) (v : Word) : Part :=
  let x := Config.cell i c
  let found := p.cellState i c
  let written := v.setWidth 8
  if guardAccepts found written then p.poke32 x v.toNat
  else { p with guardLog := p.guardLog.refuse x written found }.raise .guard

/-- A host write to a word of exchange memory (R1). -/
def Part.writeMemory (p : Part) (x : Nat) (v : Word) : Part :=
  match stateWordAt x with
  | some (i, c) => p.guardedWrite i c v
  | none => p.poke32 x v.toNat

/-- A host write to a word of the window by its index. -/
def Part.hostWrite (p : Part) (index : BitVec 14) (v : Word) : Part :=
  match registerAt index with
  | some r => p.writeRegister r v
  | none => p.take fun q => q.writeMemory (4 * index.toNat) v

/-- A host read of GUARDLOG (R11): the record is returned at the port and then cleared. While a reset lasts
the read returns a free value and changes nothing (R199, log 12). -/
def Part.readGuardLog (p : Part) : Part :=
  if p.inReset.isSome then
    { p with portData := Config.resetRead p.freeCount, freeCount := p.freeCount + 1 }
  else { p with portData := p.guardLog.word, guardLog := .empty }

/-! ### The commands -/

/-- STATION_HALT (R7, R33). -/
def execStationHalt (value : Word) (s : State) : Answer := s.event fun p => p.writeStnctl value

/-- STATION_CLEAR (R7, R36, R37). -/
def execStationClear (value : Word) (s : State) : Answer := s.event fun p => p.writeStnctl value

/-- ATTN_CLEAR (R18). -/
def execAttnClear (value : Word) (s : State) : Answer := s.event fun p => p.writeAttn value

/-- ATTNMASK_WRITE (R19). -/
def execAttnmaskWrite (value : Word) (s : State) : Answer := s.event fun p => p.writeAttnMask value

/-- GUARDLOG_READ (R11). -/
def execGuardlogRead (s : State) : Answer := .next { s with part := s.part.readGuardLog }

/-- REGISTER_WRITE_IGNORED (R4): IDENT, RACKTIME and GUARDLOG ignore the write. -/
def execRegisterWriteIgnored (register : Register) (value : Word) (s : State) : Answer :=
  .next { s with part := s.part.writeRegister register value }

/-- HOST_MEMORY_WRITE (R1). -/
def execHostMemoryWrite (index : BitVec 14) (value : Word) (s : State) : Answer :=
  .next { s with part := s.part.hostWrite index value }

/-- HOST_CELL_STATE_WRITE (R9, R11). -/
def execHostCellStateWrite (station : StationId) (cell : CellId) (value : Word) (s : State) : Answer :=
  s.event fun p => p.guardedWrite station cell value

end Sys2Proof.Machine
end

