-- ==== Sys2Proof/Machine/LineEvents.lean ====
section
/-! DEFINITION. The events of the line controllers (06): falling due, the wire, frames and responses, the
stuck line. -/

namespace Sys2Proof.Machine

/-- Changes the frame in progress. -/
def Part.setFrame (p : Part) (i : StationId) (f : Frame) : Part :=
  p.setLc i fun l => { l with frame := some f }

/-- The frame is marked NOISE (R108, R110). -/
def Frame.mark (f : Frame) (noisy : Bool) : Frame := { f with noise := f.noise || noisy }

/-- A frame's end reaches the step being worked: a LISTEN of its entry, a ONCE that waits for this frame, a
START or STOP that was pending (R125 to R127, R170). -/
def Part.frameReaches (p : Part) (i : StationId) (f : Frame) (result : FrameResult) : Part :=
  match (p.station i).walker.work with
  | .listen w =>
    if f.fetch = true ∧ w.params.entry = f.entry then
      match w.hear (p.station i).st f result with
      | (w', r) => Part.conclude i (p.setWork i (.listen w'), r)
    else p
  | .sendOnce e true =>
    if e = f.entry then p.finish i (.done 0 result.code.toNat (bit f.noise).toNat) else p
  | .sendStart enabled clamped => p.finish i (startResult enabled clamped)
  | .sendStop removed => p.finish i (.done 0 removed 0)
  | _ => p

/-- A frame ends with a result (R112): its records, what was pending at the line, and the step. -/
def Part.endFrame (p : Part) (i : StationId) (f : Frame) (result : FrameResult) : Part :=
  ((p.endFrameRecord i f result).afterFrame i).frameReaches i f result

/-- The frame in progress, if it is being transmitted (R110). -/
def Line.transmitting (l : Line) : Option Frame := l.frame.filter fun f => !f.window

/-- The frame whose response window is open (R111). -/
def Line.windowFrame (l : Line) : Option Frame := l.frame.filter (·.window)

/-- An entry's next-due time has been reached (R119, R120). -/
def Part.scheduleDue (p : Part) (i : StationId) (e : Fin 16) : Part :=
  if p.entryDue i e then (p.fallDue i e).startFrame i else p

/-- The wire comes free four bit times after a frame's end (R112, R120). -/
def Part.wireFree (p : Part) (i : StationId) : Part :=
  if (p.station i).lc.gap then (p.setLc i fun l => { l with gap := false }).startFrame i else p

/-- The idle count of a SYNCING line reaches 24 (R115). -/
def Part.syncComplete (p : Part) (i : StationId) : Part :=
  if (p.station i).lc.state = .syncing then
    (p.setLc i fun l => { l with state := .running, idleCount := 24, gap := false }).startFrame i
  else p

/-- A transmitted bit reads differently from the level driven (R110). -/
def Part.bitFault (p : Part) (i : StationId) (noisy : Bool) : Part :=
  match (p.station i).lc.transmitting with
  | some f => p.endFrame i (f.mark noisy) .bitError
  | none => p

/-- The last stop bit of a SEND frame ends (R112). -/
def Part.sendEnds (p : Part) (i : StationId) (noisy : Bool) : Part :=
  match (p.station i).lc.transmitting with
  | some f => if f.fetch then p else p.endFrame i (f.mark noisy) .ok
  | none => p

/-- The response window of a FETCH frame opens (R111). -/
def Part.openWindow (p : Part) (i : StationId) (noisy : Bool) : Part :=
  match (p.station i).lc.transmitting with
  | some f => if f.fetch then p.setFrame i { f.mark noisy with window := true } else p
  | none => p

/-- A character is received (R111); outside a window or after a result is decided it is discarded. -/
def Part.hearCharacter (p : Part) (i : StationId) (c : CharSamples) : Part :=
  match (p.station i).lc.windowFrame with
  | some f =>
    if f.decided.isSome then p
    else
      match f.receive c with
      | (f', some r) => p.endFrame i f' r
      | (f', none) => p.setFrame i f'
  | none => p

/-- The allowance passes with no start bit begun (R111). -/
def Part.allowanceEnds (p : Part) (i : StationId) : Part :=
  match (p.station i).lc.windowFrame with
  | some f =>
    if f.decided.isNone ∧ f.received = [] then p.setFrame i { f with decided := some .noResponse } else p
  | none => p

/-- The response window closes (R111); `noisy` tells that a character still incomplete at the close had a bit
whose samples disagreed (R108). -/
def Part.closeWindow (p : Part) (i : StationId) (noisy : Bool) : Part :=
  match (p.station i).lc.windowFrame with
  | some f => p.endFrame i (f.mark (noisy && f.decided.isNone)) (f.decided.getD .short)
  | none => p

/-- A start bit's majority reads recessive (R108). -/
def Part.falseStartBit (p : Part) (i : StationId) : Part :=
  match (p.station i).lc.windowFrame with
  | some f => p.setFrame i (f.mark true)
  | none => p

/-! ### The stuck line (R116, R128) -/

/-- A line that can be found stuck: not DORMANT, not transmitting, and not found stuck already without a
recessive bit since. -/
def Line.canStick (l : Line) (recessiveSince : Bool) : Bool :=
  decide (l.state ≠ .dormant) && l.transmitting.isNone && (!l.stuckHeld || recessiveSince)

/-- Step 2: a line found stuck that is loaded is cleared and QUIET (R116). -/
def Line.stick (l : Line) : Line :=
  let l1 :=
    match l.state with
    | .syncing | .running =>
      { l.clear with state := .quiet, frame := none, gap := false, pendingReload := none,
                     pendingStop := false }
    | .dormant | .quiet => l
  { l1 with stuckHeld := true }

/-- Step 3: the stuck flag and the stuck count (R116). -/
def Line.tellStuck (l : Line) : Line :=
  { l with stuckFlag := true, stuckCount := countUp 65535 l.stuckCount }

/-- The stuck line reaches the step being worked (R128, R170); a START that waited ends with the LIMITED of its
clamped periods (R27, R125; log 37). -/
def Part.stuckReaches (p : Part) (i : StationId) (cut : Option Frame) : Part :=
  match (p.station i).walker.work with
  | .sendOnce _ started =>
    let noise := if started then cut.elim 0 (fun f => (bit f.noise).toNat) else 0
    p.finish i (.done 0 FrameResult.stuck.code.toNat noise)
  | .sendStart _ clamped =>
    p.finish i { Result.error .lineError with flags := flagIf (decide (clamped ≠ 0)) resLimited }
  | .sendStop removed => p.finish i (.done 0 removed 0)
  | .listen w =>
    match cut with
    | some f =>
      if w.params.entry = f.entry then
        match w.hear (p.station i).st f .stuck with
        | (w', r) => Part.conclude i (p.setWork i (.listen w'), r)
      else p
    | none => p
  | _ => p

/-- The line is found stuck (R116), its four steps in order: a step that waits is answered before the flag, the
count and ATTN.LINE, so that a SEND START chained to it does not clear the flag. -/
def Part.stuckLine (p : Part) (i : StationId) (recessiveSince : Bool) : Part :=
  let l := (p.station i).lc
  if l.canStick recessiveSince then
    let p1 :=
      match l.windowFrame with
      | some f => p.endFrameRecord i f .stuck
      | none => p
    (((p1.setLc i Line.stick).stuckReaches i l.windowFrame).setLc i Line.tellStuck).raise (.line i)
  else p

/-! ### The commands -/

/-- SCHEDULE_ENTRY_DUE (R119). -/
def execScheduleEntryDue (station : StationId) (entry : Fin 16) (s : State) : Answer :=
  s.event fun p => p.scheduleDue station entry

/-- WIRE_FREE (R112, R120). -/
def execWireFree (station : StationId) (s : State) : Answer := s.event fun p => p.wireFree station

/-- LINE_SYNC_COMPLETE (R115). -/
def execLineSyncComplete (station : StationId) (s : State) : Answer :=
  s.event fun p => p.syncComplete station

/-- BIT_ERROR (R110). -/
def execBitError (station : StationId) (noisy : Bool) (s : State) : Answer :=
  s.event fun p => p.bitFault station noisy

/-- FRAME_END (R112). -/
def execFrameEnd (station : StationId) (noisy : Bool) (s : State) : Answer :=
  s.event fun p => p.sendEnds station noisy

/-- RESPONSE_WINDOW_OPEN (R111). -/
def execResponseWindowOpen (station : StationId) (noisy : Bool) (s : State) : Answer :=
  s.event fun p => p.openWindow station noisy

/-- RESPONSE_CHARACTER_RECEIVED (R108, R111). -/
def execResponseCharacterReceived (station : StationId) (samples : CharSamples) (s : State) : Answer :=
  s.event fun p => p.hearCharacter station samples

/-- RESPONSE_ALLOWANCE_EXPIRY (R111). -/
def execResponseAllowanceExpiry (station : StationId) (s : State) : Answer :=
  s.event fun p => p.allowanceEnds station

/-- RESPONSE_WINDOW_CLOSE (R111). -/
def execResponseWindowClose (station : StationId) (s : State) (noisy : Bool := false) : Answer :=
  s.event fun p => p.closeWindow station noisy

/-- FALSE_START (R108). -/
def execFalseStart (station : StationId) (s : State) : Answer :=
  s.event fun p => p.falseStartBit station

/-- LINE_STUCK (R116). -/
def execLineStuck (station : StationId) (recessiveSince : Bool) (s : State) : Answer :=
  s.event fun p => p.stuckLine station recessiveSince

end Sys2Proof.Machine
end

