-- ==== Sys2Proof/Machine/PanelEvents.lean ====
section
/-! DEFINITION. The events of the panel (10): keys, prompt timeouts, renders, beeps and the buzzer's end. -/

namespace Sys2Proof.Machine

/-- The number of a key's debouncer. -/
def keyNumber : Key → Fin 4
  | .yes => 0 | .no => 1 | .again => 2 | .stop => 3

/-- What an answered prompt leaves in its cell (R181). -/
def PanelEntry.answer (e : PanelEntry) (v : Verdict) (r : Reason) (key : Nat) : Result :=
  { verdict := v, reason := r, flags := 0, value := key, aux := e.shown, attempts := e.repeatCount,
    unit := 0 }

/-- A prompt's entry ends and its cell completes (R179, R181). -/
def Part.answerPrompt (p : Part) (e : PanelEntry) (r : Result) : Part :=
  p.endShowing.completeStep e.station r

/-- STOP on a showing prompt (R181, R188): a re-run in flight is abandoned first. -/
def Part.pressStop (p : Part) (e : PanelEntry) : Part :=
  (p.abandonRerun e.station .repeatStop).answerPrompt e (e.answer .fail .operatorStop 3)

/-- A press of a showing prompt outside its show guard (R181, R186 to R188). -/
def Part.pressPrompt (p : Part) (e : PanelEntry) (key : Key) : Part :=
  match key with
  | .stop => p.pressStop e
  | .yes =>
    if e.rerun then p
    else p.answerPrompt e (e.answer (if e.acknowledge then .none else .pass) .ok 1)
  | .no =>
    if e.rerun then p
    else if e.acknowledge then p.answerPrompt e (e.answer .none .ok 2)
    else p.answerPrompt e (e.answer .fail .operatorNo 2)
  | .again => if e.rerun then p else p.pressRepeat e

/-- A press of a showing notice outside its show guard (R185). -/
def Part.pressNotice (p : Part) (key : Key) : Part :=
  match key with
  | .yes | .no => p.endShowing
  | .again => p.beep Config.shortBeep
  | .stop => p

/-- A press is taken against what is showing (R174). -/
def Part.takePress (p : Part) (key : Key) : Part :=
  match p.panel.showing with
  | none => p
  | some e =>
    if p.guarded then p
    else if e.notice.isSome then p.pressNotice key
    else p.pressPrompt e key

/-- The raw level of a key has differed from its debounced level for the debounce time (R174). -/
def Part.keyDue (p : Part) (key : Key) : Bool :=
  decide (p.config.panelDebounce ≤ p.panel.keyRaw[keyNumber key])

/-- A key's debounced level changes, and its raw count begins anew (R174). -/
def Panel.setKey (c : Panel) (key : Key) (held : Bool) : Panel :=
  { c with keys := put c.keys (keyNumber key) held, keyRaw := put c.keyRaw (keyNumber key) 0 }

/-- A key's debounced level changes to held once the debounce time has passed (R174); a key already held gives
no press. -/
def Part.keyPressed (p : Part) (key : Key) : Part :=
  if p.keyDue key && !p.panel.keys[keyNumber key] then (p.setPanel (·.setKey key true)).takePress key else p

/-- A key's debounced level changes to released once the debounce time has passed (R174). -/
def Part.keyReleased (p : Part) (key : Key) : Part :=
  if p.keyDue key && p.panel.keys[keyNumber key] then p.setPanel (·.setKey key false) else p

/-- The remaining timeout of the showing prompt has reached 0 (R180, R181). -/
def Part.promptExpires (p : Part) : Part :=
  match p.panel.showing with
  | some e =>
    if e.notice = none ∧ e.remaining = some 0 ∧ e.rerun = false then
      p.answerPrompt e (e.answer .fail .timeout 0)
    else p
  | none => p

/-- A render of the showing entry, at every 200 ms after its show (R175, R189). -/
def Part.render (p : Part) : Part :=
  match p.panel.showing with
  | some e =>
    let n := p.since p.panel.showTime
    if 0 < n ∧ n % Config.renderInterval = 0 then (p.showText (p.renderEntry e)).publishFigures else p
  | none => p

/-- The long beep of a showing notice at its beep time (R185). -/
def Part.noticeBeeps (p : Part) : Part :=
  match p.panel.showing with
  | some e =>
    if e.notice.isSome = true ∧ p.reached p.panel.beepTime = true then
      (p.beep Config.longBeep).setPanel fun c =>
        { c with beepTime := c.beepTime + BitVec.ofNat 32 Config.noticeInterval }
    else p
  | none => p

/-- Rack time reaches the buzzer end (R192). -/
def Part.buzzerEnds (p : Part) : Part :=
  match p.panel.buzzerEnd with
  | some e => if p.reached e then p.setPanel fun c => { c with buzzerEnd := none } else p
  | none => p

/-! ### The commands -/

/-- KEY_PRESS (R174). -/
def execKeyPress (key : Key) (s : State) : Answer := s.event fun p => p.keyPressed key

/-- KEY_RELEASE (R174). -/
def execKeyRelease (key : Key) (s : State) : Answer := s.event fun p => p.keyReleased key

/-- PROMPT_TIMEOUT (R180). -/
def execPromptTimeout (s : State) : Answer := s.event Part.promptExpires

/-- PANEL_RENDER (R189). -/
def execPanelRender (s : State) : Answer := s.event Part.render

/-- NOTICE_BEEP (R185). -/
def execNoticeBeep (s : State) : Answer := s.event Part.noticeBeeps

/-- BUZZER_END (R192). -/
def execBuzzerEnd (s : State) : Answer := s.event Part.buzzerEnds

end Sys2Proof.Machine
end

