-- ==== Sys2Proof/Machine/StepEvents.lean ====
section
/-! DEFINITION. The events a walker makes against rack time: the end of a WAIT, the start of an attempt, and
the timeouts of MEASURE and LISTEN (R45, R163, R165, R171). -/

namespace Sys2Proof.Machine

/-- The duration of a WAIT has passed from its take (R45). -/
def Part.waitEnds (p : Part) (i : StationId) : Part :=
  match (p.station i).walker.active with
  | some t =>
    match t.work with
    | .wait d => if p.passed t.takeTime d then p.finish i (.done 0 d 0) else p
    | _ => p
  | none => p

/-- The next attempt of a MEASURE starts when its time has come and none is in flight (R163, R165). -/
def Part.nextAttempt (p : Part) (i : StationId) : Part :=
  match (p.station i).walker.active with
  | some t =>
    match t.work with
    | .measure w =>
      if w.gathering = .none ∧ w.expired = false ∧ p.reached w.nextStart = true then
        Part.conclude i (p.startAttempt i w t.traced)
      else p
    | _ => p
  | none => p

/-- The settle timeout expires (R165): with no attempt in flight the step fails, else the attempt in flight
is the last. A LAMP MEASURE held for the identity read of its head makes no attempt and takes no expiry
(log 40). -/
def Part.settleExpires (p : Part) (i : StationId) : Part :=
  match (p.station i).walker.active with
  | some t =>
    match t.work with
    | .measure w =>
      if w.params.settle ≠ 0 ∧ w.expired = false ∧ p.passed t.takeTime w.params.settle = true then
        if w.gathering = .none then p.finish i w.fail
        else p.setWork i (.measure { w with expired := true })
      else p
    | _ => p
  | none => p

/-- The timeout of a LISTEN expires (R171). -/
def Part.listenExpires (p : Part) (i : StationId) : Part :=
  match (p.station i).walker.active with
  | some t =>
    match t.work with
    | .listen w => if p.passed t.takeTime w.params.timeout then p.finish i w.fail else p
    | _ => p
  | none => p

/-! ### The commands -/

/-- WAIT_EXPIRY (R45). -/
def execWaitExpiry (station : StationId) (s : State) : Answer := s.event fun p => p.waitEnds station

/-- ATTEMPT_START (R163). -/
def execAttemptStart (station : StationId) (s : State) : Answer := s.event fun p => p.nextAttempt station

/-- SETTLE_TIMEOUT (R165). -/
def execSettleTimeout (station : StationId) (s : State) : Answer :=
  s.event fun p => p.settleExpires station

/-- LISTEN_TIMEOUT (R171). -/
def execListenTimeout (station : StationId) (s : State) : Answer :=
  s.event fun p => p.listenExpires station

end Sys2Proof.Machine
end

