-- ==== Sys2Proof/Machine/UnitEvents.lean ====
section
/-! DEFINITION. The events of the supply channels (04) and the stimulus units (05). -/

namespace Sys2Proof.Machine

/-- One ms of a supply ramp; at its end the POWER ON being worked completes (R78). -/
def Part.supplyStep (p : Part) (i : StationId) : Part :=
  let u := (p.station i).ps
  if u.state = .ramping ∧ p.supplyStepDue u = true then
    let v := u.rampStep
    let p1 := p.setPs i fun _ => v
    match v.state, (p1.station i).walker.work with
    | .on, .power limited => p1.finish i (v.powerResult limited)
    | _, _ => p1
  else p

/-- A monitor sample of a live supply (R80, R81). -/
def Part.monitorSample (p : Part) (i : StationId) (mA mV : Nat) (inLimit : Bool) : Part :=
  if (p.station i).ps.live then p.setPs i fun u => u.sample mA mV inLimit else p

/-- A trip: TRIPPED, stimulus parked, line DORMANT, OVERCURRENT reported (R82, R84). -/
def Part.trip (p : Part) (i : StationId) : Part :=
  let u := (p.station i).ps
  if u.live && u.tripDue then (p.supplyLeave i .tripped).faultReport i .overcurrent else p

/-- A SET waiting for this channel's ramp counts a step (R104). -/
def Walker.countStep (w : Walker) (c : RampChannel) : Walker :=
  match w.work with
  | .set k => if k.channel = c then w.setWork (.set { k with steps := k.steps + 1 }) else w
  | _ => w

/-- A step of a channel's ramp; at the arrival the SET waiting for it completes (R96, R97). -/
def Part.rampStep (p : Part) (i : StationId) (c : RampChannel) : Part :=
  let t := (p.station i).st
  match t.ramp c with
  | none => p
  | some r =>
    if p.rampDue r then
      match t.stepRamp c r with
      | (t', arrived) =>
        let p1 := (p.setSt i fun _ => t').setWalker i fun w => w.countStep c
        match arrived, (p1.station i).walker.work with
        | true, .set k => if k.channel = c then p1.finish i k.result else p1
        | _, _ => p1
    else p

/-! ### The commands -/

/-- SUPPLY_RAMP_STEP (R78). -/
def execSupplyRampStep (station : StationId) (s : State) : Answer :=
  s.event fun p => p.supplyStep station

/-- SUPPLY_MONITOR_SAMPLE (R80, R81). -/
def execSupplyMonitorSample (station : StationId) (milliamps millivolts : BitVec 16) (inLimit : Bool)
    (s : State) : Answer :=
  s.event fun p => p.monitorSample station milliamps.toNat millivolts.toNat inLimit

/-- SUPPLY_TRIP (R82). -/
def execSupplyTrip (station : StationId) (s : State) : Answer := s.event fun p => p.trip station

/-- STIMULUS_RAMP_STEP (R96). -/
def execStimulusRampStep (station : StationId) (channel : RampChannel) (s : State) : Answer :=
  s.event fun p => p.rampStep station channel

/-- PG_PERIOD_BOUNDARY (R93). -/
def execPgPeriodBoundary (station : StationId) (generator : Fin 4) (s : State) : Answer :=
  s.event fun p => p.setSt station fun t => { t with pg := put t.pg generator t.pg[generator].boundary }

end Sys2Proof.Machine
end

