-- ==== Sys2Proof/Machine/Dispatch.lean ====
section
/-! DEFINITION. The dispatch of a command to its meaning: one arm per constructor of Instr. -/

namespace Sys2Proof.Machine

def exec (i : Instr) (s : State) : Host.Outcome State Fault Refusal :=
  match i with
  | .powerOnReset contents => Sys2Proof.Machine.execPowerOnReset contents s
  | .resetPinAsserted => Sys2Proof.Machine.execResetPinAsserted s
  | .softReset value => Sys2Proof.Machine.execSoftReset value s
  | .rackEnable value raw => Sys2Proof.Machine.execRackEnable value raw s
  | .rackDisable value => Sys2Proof.Machine.execRackDisable value s
  | .sweepmodeWrite value => Sys2Proof.Machine.execSweepmodeWrite value s
  | .sweepWrite value => Sys2Proof.Machine.execSweepWrite value s
  | .periodicSweep => Sys2Proof.Machine.execPeriodicSweep s
  | .stationHalt value => Sys2Proof.Machine.execStationHalt value s
  | .stationClear value => Sys2Proof.Machine.execStationClear value s
  | .attnClear value => Sys2Proof.Machine.execAttnClear value s
  | .attnmaskWrite value => Sys2Proof.Machine.execAttnmaskWrite value s
  | .guardlogRead => Sys2Proof.Machine.execGuardlogRead s
  | .registerWriteIgnored register value => Sys2Proof.Machine.execRegisterWriteIgnored register value s
  | .hostMemoryWrite index value => Sys2Proof.Machine.execHostMemoryWrite index value s
  | .hostCellStateWrite station cell value => Sys2Proof.Machine.execHostCellStateWrite station cell value s
  | .rackTimeTick keys fixtures => Sys2Proof.Machine.execRackTimeTick s keys fixtures
  | .waitExpiry station => Sys2Proof.Machine.execWaitExpiry station s
  | .fixtureDebounceChange station input => Sys2Proof.Machine.execFixtureDebounceChange station input s
  | .fixtureCodeChange station code => Sys2Proof.Machine.execFixtureCodeChange station code s
  | .twoHandTimeout station => Sys2Proof.Machine.execTwoHandTimeout station s
  | .travelTimeout station => Sys2Proof.Machine.execTravelTimeout station s
  | .supplyRampStep station => Sys2Proof.Machine.execSupplyRampStep station s
  | .supplyMonitorSample station milliamps millivolts inLimit => Sys2Proof.Machine.execSupplyMonitorSample station milliamps millivolts inLimit s
  | .supplyTrip station => Sys2Proof.Machine.execSupplyTrip station s
  | .stimulusRampStep station channel => Sys2Proof.Machine.execStimulusRampStep station channel s
  | .pgPeriodBoundary station generator => Sys2Proof.Machine.execPgPeriodBoundary station generator s
  | .scheduleEntryDue station entry => Sys2Proof.Machine.execScheduleEntryDue station entry s
  | .wireFree station => Sys2Proof.Machine.execWireFree station s
  | .lineSyncComplete station => Sys2Proof.Machine.execLineSyncComplete station s
  | .bitError station noisy => Sys2Proof.Machine.execBitError station noisy s
  | .frameEnd station noisy => Sys2Proof.Machine.execFrameEnd station noisy s
  | .responseCharacterReceived station samples => Sys2Proof.Machine.execResponseCharacterReceived station samples s
  | .responseAllowanceExpiry station => Sys2Proof.Machine.execResponseAllowanceExpiry station s
  | .responseWindowClose station noisy => Sys2Proof.Machine.execResponseWindowClose station s noisy
  | .lineStuck station recessiveSince => Sys2Proof.Machine.execLineStuck station recessiveSince s
  | .sampleEnd microvolts => Sys2Proof.Machine.execSampleEnd microvolts s
  | .inputFilteredEdge station input tick => Sys2Proof.Machine.execInputFilteredEdge station input tick s
  | .inputExcursionRejected station input => Sys2Proof.Machine.execInputExcursionRejected station input s
  | .edgeWindowClose station => Sys2Proof.Machine.execEdgeWindowClose station s
  | .meterGateEnd station meter => Sys2Proof.Machine.execMeterGateEnd station meter s
  | .meterDeadline station meter => Sys2Proof.Machine.execMeterDeadline station meter s
  | .lampIdentityRead station identity => Sys2Proof.Machine.execLampIdentityRead station identity s
  | .lampRowUpdate station readings => Sys2Proof.Machine.execLampRowUpdate station readings s
  | .attemptStart station => Sys2Proof.Machine.execAttemptStart station s
  | .settleTimeout station => Sys2Proof.Machine.execSettleTimeout station s
  | .listenTimeout station => Sys2Proof.Machine.execListenTimeout station s
  | .keyPress key => Sys2Proof.Machine.execKeyPress key s
  | .promptTimeout => Sys2Proof.Machine.execPromptTimeout s
  | .panelRender => Sys2Proof.Machine.execPanelRender s
  | .noticeBeep => Sys2Proof.Machine.execNoticeBeep s
  | .buzzerEnd => Sys2Proof.Machine.execBuzzerEnd s
  | .resetEnd => Sys2Proof.Machine.execResetEnd s
  | .keyRelease key => Sys2Proof.Machine.execKeyRelease key s
  | .responseWindowOpen station noisy => Sys2Proof.Machine.execResponseWindowOpen station noisy s
  | .falseStart station => Sys2Proof.Machine.execFalseStart station s

end Sys2Proof.Machine
end

