-- ==== Sys2Proof/Safety.lean ====
section
/-! DEFINITION. What a safe run keeps, in the words claims use: the laws the manual states of every moment
of the part, and what a command leaves as it was. -/

namespace Sys2Proof.Machine

/-! ### Laws of every moment -/

/-- The drive command is the one R53's table gives for the fixture state; with no state it is release
(R54). -/
def Fixture.driveLawful (f : Fixture) : Bool :=
  match f.state with
  | some .closing | some .clamped => f.drive
  | some .opened | some .arming | some .opening | some .jammed | none => !f.drive

/-- Nothing is loaded, waiting or on the wire, and the line is DORMANT (06 section 6.3, R117). -/
def Line.still (l : Line) : Bool :=
  decide (l.state = .dormant) && l.schedule.isNone && l.due.isEmpty && l.frame.isNone &&
    l.pendingReload.isNone && !l.pendingStop

/-- While the supply is not live the stimulus is parked and the line DORMANT (R84). -/
def Station.deadIsParked (x : Station) : Bool :=
  x.ps.live || (decide (x.st = Stimulus.park) && x.lc.still)

/-- A live supply has a CLAMPED fixture, a part in the nest and a closed guard (R73), at a station that is
not OFF (R74). -/
def Station.liveIsHeld (x : Station) : Bool :=
  !x.ps.live ||
    (decide (x.fx.state = some .clamped) && x.fx.levels.nest && x.fx.levels.guard &&
      decide (x.walker.state ≠ .off))

/-- Only a BUSY or WAITING station has a step in flight (R21, R25). -/
def Walker.stepLawful (w : Walker) : Bool :=
  match w.state with
  | .busy | .waiting => true
  | .off | .idle | .stopped | .faulted => w.step.isNone

/-- The step in flight is counted as taken in the run still open. -/
def Walker.inFlight (w : Walker) : Nat :=
  match w.step with
  | some t => if t.counted then 1 else 0
  | none => 0

/-- The identity of R40 over the counts: taken is the sum of the other five, plus one while a counted step is in
flight. -/
def Walker.agrees (w : Walker) : Bool :=
  decide (w.run.taken.toNat = w.run.passed.toNat + w.run.failed.toNat + w.run.errored.toNat +
    w.run.unjudged.toNat + w.run.abandoned.toNat + w.inFlight)

/-- Every open run of a station that is not OFF agrees with the identity of R40. -/
def Walker.runLawful (w : Walker) : Bool :=
  decide (w.state = .off) || !decide (w.run.state = .opened) || w.agrees

/-- R53, R54 at every station. -/
abbrev Part.DriveLaw (p : Part) : Prop := ∀ i, (p.station i).fx.driveLawful = true

/-- R84 at every station. -/
abbrev Part.ParkLaw (p : Part) : Prop := ∀ i, (p.station i).deadIsParked = true

/-- Steps only in BUSY and WAITING stations, at every station. -/
abbrev Part.StepLaw (p : Part) : Prop := ∀ i, (p.station i).walker.stepLawful = true

/-- R73 at every station, with what keeps it: the step law, and all stations OFF while disabled (R49). -/
abbrev Part.SupplyLaw (p : Part) : Prop :=
  (∀ i, (p.station i).liveIsHeld = true) ∧ p.StepLaw ∧
    (p.enabled = false → ∀ i, (p.station i).walker.state = .off)

/-- R40 at every station, with what keeps it. -/
abbrev Part.RunLaw (p : Part) : Prop := (∀ i, (p.station i).walker.runLawful = true) ∧ p.StepLaw

/-- The pin and the lamps are those R19 and R193 give for the registers, states and records as they
stand. -/
abbrev Part.Settled (p : Part) : Prop :=
  p.attnPin = pinAsserted p.attn p.attnMask ∧ p.panel.lamps = p.lampsNow

/-- The kinds a REPEAT may re-run leave no other work (R186): a WAIT, a SET or a SEND. -/
def Work.repeats : Work → Bool
  | .none | .wait _ | .set _ | .sendStart _ _ | .sendStop _ | .sendOnce _ _ => true
  | .clamp _ _ | .release | .endRelease _ _ | .contact _ | .power _ | .measureHeld _ | .measure _
  | .listen _ | .prompt => false

/-- Every entry of the panel: the showing one first, then the queue. -/
def Panel.entries (c : Panel) : List PanelEntry := c.showing.toList ++ c.queue

/-- R178: what the panel may hold. A station stands in it at most once, with a prompt only while it is WAITING on
its PROMPT and with a notice only while it is FAULTED; with what keeps that: a re-run belongs to the prompt it answers
(R46, R186), steps are in flight at BUSY and WAITING stations alone (R25), and the stations of a disabled rack are OFF
(R49). -/
structure Part.PanelLaw (p : Part) : Prop where
  once : (p.panel.entries.map PanelEntry.station).Nodup
  notices : ∀ e ∈ p.panel.entries, e.notice.isSome = true → (p.station e.station).walker.state = .faulted
  prompts : ∀ e ∈ p.panel.entries, e.notice = none →
    (p.station e.station).walker.state = .waiting ∧
    (∃ t, (p.station e.station).walker.step = some t ∧ t.work = .prompt) ∧
    e.rerun = (p.station e.station).walker.rerun.isSome
  reruns : ∀ (i : StationId) (t : Step), (p.station i).walker.rerun = some t →
    t.work.repeats = true ∧ ∃ e ∈ p.panel.entries, e.promptOf i = true
  steps : p.StepLaw
  dark : p.enabled = false → ∀ i, (p.station i).walker.state = .off

/-- R131: a request stands in the converter's queue only for a BUSY station, with the MEASURE that gathers a
conversion or the CONTACT that asked for it in flight and no re-run. -/
def Part.ConvLaw (p : Part) : Prop :=
  ∀ i : StationId, p.conv.queue[i].isSome = true →
    (p.station i).walker.state = .busy ∧ (p.station i).walker.rerun = none ∧
    ∃ t, (p.station i).walker.step = some t ∧
      ((∃ w, t.work = .measure w ∧ w.gathering = .conversion) ∨ ∃ w, t.work = .contact w)

/-- R120 at one line, with what keeps it: the due list holds an entry at most once; a line that is not SYNCING or
RUNNING has nothing due and nothing loaded; a frame is on the wire of a RUNNING line alone; and a pending STOP waits
for a frame's end with nothing due and nothing loaded (R126). -/
structure Line.DueLaw (l : Line) : Prop where
  once : (l.due.map Prod.fst).Nodup
  quiet : l.state = .dormant ∨ l.state = .quiet → l.due = [] ∧ l.schedule = none
  wire : l.frame.isSome = true → l.state = .running
  stop : l.pendingStop = true → l.frame.isSome = true ∧ l.due = [] ∧ l.schedule = none

/-- R120 at every station's line. -/
abbrev Part.DueLaw (p : Part) : Prop := ∀ i, (p.station i).lc.DueLaw

/-- Counts a generator may run (R91): those of a stopped one, or a period of 500 to 40,000,000 ticks with a high
count of 1 to one less than the period. -/
abbrev Counts.lawful (c : Counts) : Prop :=
  (c.period = 0 ∧ c.high = 0) ∨
    (500 ≤ c.period ∧ c.period ≤ 40000000 ∧ 1 ≤ c.high ∧ c.high ≤ c.period - 1)

/-- R91 at every generator: its running counts and those it is to run. -/
abbrev Part.PulseLaw (p : Part) : Prop :=
  ∀ (i : StationId) (k : Fin 4), (p.station i).st.pg[k].running.lawful ∧
    ∀ c, (p.station i).st.pg[k].pending = some c → c.lawful

/-! ### What a command leaves as it was -/

/-- Window offset `a` lies in the header of station `i` (12.4). -/
abbrev InHeader (i : StationId) (a : Nat) : Prop := Config.page i ≤ a ∧ a < Config.page i + 0x100

/-- Every byte outside the station headers reads as before. -/
def Memory.SameOutsideHeaders (m m' : Memory) : Prop :=
  ∀ a, (∀ i, ¬InHeader i a) → m'.read a = m.read a

/-- Every byte outside `n` bytes from `x` reads as before. -/
def Memory.SameOutside (m m' : Memory) (x n : Nat) : Prop :=
  ∀ a, (a < x ∨ x + n ≤ a) → m'.read a = m.read a

/-- The word at an offset of a memory. -/
def Memory.word (m : Memory) (x : Nat) : Word := BitVec.ofNat 32 (m.readLE x 4)

/-- A command answered by one event of the part that runs: the change it makes, with its publication and the
pin and lamps that follow (commit); the commands that wait stand. -/
def Answers (c : Instr) (s : State) (f : Part → Part) : Prop :=
  exec c s = .next { s with part := Part.commit s.part (f s.part) }

/-- A command answered by a change of the part that no header shows: the pin and the lamps follow it; the
commands that wait stand. -/
def Leaves (c : Instr) (s : State) (p : Part) : Prop := exec c s = .next { s with part := p.settle }

/-! ### What a station is doing -/

/-- No reset lasts. -/
abbrev Part.Runs (p : Part) : Prop := p.inReset = none

/-- Step `t` is in flight at the station with work `k`, and no re-run. -/
abbrev Part.Works (p : Part) (i : StationId) (t : Step) (k : Work) : Prop :=
  (p.station i).walker.rerun = none ∧ (p.station i).walker.step = some t ∧ t.work = k

/-- The raw level of the input has differed from its debounced level for the debounce time (R50). -/
abbrev Part.InputHeld (p : Part) (i : StationId) (k : FixtureInput) : Prop :=
  p.config.fixtureDebounce ≤ (p.station i).fx.raw[inputNumber k]

/-- The raw code bits have held `c`, which is not the mounted code, for the debounce time (R51). -/
abbrev Part.CodeHeld (p : Part) (i : StationId) (c : BitVec 6) : Prop :=
  c = (p.station i).fx.codeRaw ∧ c ≠ (p.station i).fx.code ∧
    p.config.fixtureDebounce ≤ (p.station i).fx.codeCount

/-- No step and no re-run is in flight at the station. -/
abbrev Part.AtRest (p : Part) (i : StationId) : Prop :=
  (p.station i).walker.rerun = none ∧ (p.station i).walker.step = none

/-- No step follows at the station: its run is not at the length limit and the cell at its position is not
READY (R21, R24). -/
abbrev Part.RingWaits (p : Part) (i : StationId) : Prop :=
  p.cellState i (p.station i).walker.position ≠ cellReady ∧
    ¬((p.station i).walker.run.state = .opened ∧ (p.station i).walker.run.taken = 65535)

/-- Every station but one stands as it was. -/
abbrev Part.OthersStand (p q : Part) (i : StationId) : Prop := ∀ j, j ≠ i → q.station j = p.station j

/-- Nothing of the part but memory, attention causes, panel, converter and station columns with their marks has
changed. -/
abbrev Part.RackStands (p q : Part) : Prop :=
  q = { p with mem := q.mem, attn := q.attn, panel := q.panel, conv := q.conv, stations := q.stations
               touched := q.touched }

/-! ### A cell's results (R27, 12.5) -/

/-- The result words of a cell hold a result, with its elapsed time. -/
def Memory.HoldsResult (m : Memory) (i : StationId) (c : CellId) (r : Result) (elapsed : Nat) : Prop :=
  m.read (Config.cell i c + 36) = r.verdict.code ∧
  m.read (Config.cell i c + 37) = r.reason.code ∧
  m.readLE (Config.cell i c + 38) 2 = r.flags.toNat ∧
  m.readLE (Config.cell i c + 40) 4 = s32Bits r.value ∧
  m.readLE (Config.cell i c + 44) 4 = s32Bits r.aux ∧
  m.readLE (Config.cell i c + 48) 2 = r.attempts % 65536 ∧
  m.readLE (Config.cell i c + 60) 4 = elapsed

/-- A cell is ABANDONED, with verdict NONE and a reason (R32). -/
abbrev Part.CellAbandoned (p : Part) (i : StationId) (c : CellId) (r : Reason) : Prop :=
  p.cellState i c = cellAbandoned ∧ p.mem.read (Config.cell i c + 36) = Verdict.none.code ∧
    p.mem.read (Config.cell i c + 37) = r.code

/-- The bytes of a memory from `x` on read as before. -/
abbrev Memory.SameIn (m m' : Memory) (x n : Nat) : Prop := ∀ a, x ≤ a → a < x + n → m'.read a = m.read a

/-- Byte `a` is the state byte of a cell or one of the result bytes its end writes: 36 to 49 and 60 to 63. -/
abbrev InResult (i : StationId) (c : CellId) (a : Nat) : Prop :=
  a = Config.cell i c ∨ (Config.cell i c + 36 ≤ a ∧ a < Config.cell i c + 50) ∨
    (Config.cell i c + 60 ≤ a ∧ a < Config.cell i c + 64)

/-- The pairings of R9's table: the state found, the state byte written. -/
def R9Accepts (found written : Byte) : Prop :=
  (found = 0 ∧ written = 1) ∨ (found = 1 ∧ written = 0) ∨ (found = 4 ∧ written = 0) ∨
    (found = 5 ∧ written = 0) ∨ (5 < found.toNat ∧ written = 0) ∨ found = written

/-- What the blocks held for an abandoned step they hold no more (R72, R134, R140, R144, R182, R188): the conversion
request, the edge window and the meters of a MEASURE, the source and the matrix of a CONTACT, the wait of an ARMING
fixture, the ramp a SET waits for, and the panel entry of a PROMPT. -/
def Part.Withdrawn (p : Part) (i : StationId) : Work → Prop
  | .measure _ => p.conv.queue[i] = none ∧ (p.station i).aq.window = none ∧
      ∀ n : Fin 2, (p.station i).aq.meters[n].state = .idle ∧ (p.station i).aq.meters[n].shown = .idle
  | .contact _ => p.conv.queue[i] = none ∧ (p.station i).fx.source = false ∧ (p.station i).fx.matrix = none
  | .clamp _ _ => (p.station i).fx.state ≠ some .arming
  | .set w =>
    match w.channel with
    | .pg n => (p.station i).st.pg[n].ramp = none
    | .lv n => (p.station i).st.lv[n].ramp = none
  | .prompt => ∀ e ∈ p.panel.entries, e.promptOf i = false
  | .none | .wait _ | .release | .endRelease _ _ | .power _ | .sendStart _ _ | .sendStop _ | .sendOnce _ _
  | .measureHeld _ | .listen _ => True

/-- The step being worked is a SET that waits for the channel's ramp (R97). -/
def Work.awaits (c : RampChannel) : Work → Bool
  | .set w => decide (w.channel = c)
  | .none | .wait _ | .clamp _ _ | .release | .endRelease _ _ | .contact _ | .power _ | .sendStart _ _
  | .sendStop _ | .sendOnce _ _ | .measureHeld _ | .measure _ | .listen _ | .prompt => false

/-- The step being worked is one that a frame's end may reach: a LISTEN, or a SEND that waits. -/
def Work.hearsFrames : Work → Bool
  | .listen _ | .sendOnce _ _ | .sendStart _ _ | .sendStop _ => true
  | .none | .wait _ | .clamp _ _ | .release | .endRelease _ _ | .contact _ | .power _ | .set _
  | .measureHeld _ | .measure _ | .prompt => false

end Sys2Proof.Machine
end

