-- ==== Sys2Proof/WellFormed.lean ====
section
/-! DEFINITION. Which operands a command of a row carries: the written bits that make it that row, and the
window offsets that are not a state word or a register. -/

namespace Sys2Proof

open Sys2Proof.Machine

/-- The SOFTRESET, ENABLE, HALT and CLEAR fields of a written word (01 section 1.3). -/
def asksReset (v : Word) : Bool := v.getLsbD 2
def asksEnable (v : Word) : Bool := v.getLsbD 0
def haltBits (v : Word) : BitVec 4 := v.extractLsb' 0 4
def clearBits (v : Word) : BitVec 4 := v.extractLsb' 4 4

/-- The register is one whose writes are ignored as a whole (R4). -/
def ignoresWrites : Register → Bool
  | .ident | .racktime | .guardlog => true
  | .rackctl | .sweep | .stnctl | .attn | .attnmask => false

/-- A word index of exchange memory that holds no cell state word (01 section 1.4). -/
def plainWord (index : BitVec 14) : Bool :=
  (registerAt index).isNone && (stateWordAt (4 * index.toNat)).isNone

/-- A command carries operands of its row. -/
def Instr.wellFormed : Instr → Bool
  | .powerOnReset contents => contents.all fun c => decide (c.1 < Config.memoryEnd)
  | .softReset value => asksReset value
  | .rackEnable value _ => !asksReset value && asksEnable value
  | .rackDisable value => !asksReset value && !asksEnable value
  | .sweepmodeWrite value => !asksReset value
  | .stationHalt value => decide (haltBits value ≠ 0)
  | .stationClear value => decide (clearBits value ≠ 0)
  | .registerWriteIgnored register _ => ignoresWrites register
  | .hostMemoryWrite index _ => plainWord index
  | .resetPinAsserted | .sweepWrite _ | .periodicSweep | .attnClear _ | .attnmaskWrite _ | .guardlogRead
  | .hostCellStateWrite _ _ _ | .rackTimeTick _ _ | .waitExpiry _ | .fixtureDebounceChange _ _
  | .fixtureCodeChange _ _ | .twoHandTimeout _ | .travelTimeout _ | .supplyRampStep _
  | .supplyMonitorSample _ _ _ _ | .supplyTrip _ | .stimulusRampStep _ _ | .pgPeriodBoundary _ _
  | .scheduleEntryDue _ _ | .wireFree _ | .lineSyncComplete _ | .bitError _ _ | .frameEnd _ _
  | .responseCharacterReceived _ _ | .responseAllowanceExpiry _ | .responseWindowClose _ _ | .lineStuck _ _
  | .sampleEnd _ | .inputFilteredEdge _ _ _ | .inputExcursionRejected _ _ | .edgeWindowClose _
  | .meterGateEnd _ _ | .meterDeadline _ _ | .lampIdentityRead _ _ | .lampRowUpdate _ _
  | .attemptStart _ | .settleTimeout _ | .listenTimeout _ | .keyPress _ | .promptTimeout | .panelRender
  | .noticeBeep | .buzzerEnd | .resetEnd | .keyRelease _ | .responseWindowOpen _ _ | .falseStart _ => true

end Sys2Proof
end

