-- ==== Sys2Proof/Certificates/Slice0/Obligations.lean ====
section
/-! DEFINITION. The statements for the provers. Each docstring names the rules of spec/ it rests on; where a
clause is the model's own choice it names the log entry. -/

open Sys2Proof Sys2Proof.Machine

/-! ### The queue and the commands -/

/-- A step carries out the command at the front of the queue with the rest of the queue behind it; with no
command waiting the part idles (the model's choice, log 8). Every command of every row answers a next state and
leaves the queue as it was (log 27). -/
def Obligations.StepTakesFrontCommand : Prop :=
  (∀ (s : State) (c : Instr) (rest : List Instr), s.pending = c :: rest →
    step s = exec c { s with pending := rest }) ∧
  (∀ s : State, s.pending = [] → step s = .next s) ∧
  ∀ (c : Instr) (s : State), ∃ t, exec c s = .next t ∧ t.pending = s.pending

/-! ### Resets (R4, R5, R47, R54, R74, R88, R114, R135, R141, R145, R176, R194, R199, R200) -/

/-- Right after a reset every register reads 0 but IDENT (R4, R5, R11, R18, R19), every station is OFF (R47) and
the reset record says power-on (R200); and that state keeps every law the steps keep. -/
def Obligations.ResetStateIsLawful : Prop :=
  (∀ r : Register, r ≠ .ident → State.reset.part.readRegister r = 0) ∧
  State.reset.part.readRegister .ident = 0x24040001 ∧
  State.reset.part.attnPin = false ∧
  State.reset.part.mem.word Config.resetRecord = 1 ∧
  State.reset.part.mem.wf = true ∧ State.reset.part.DriveLaw ∧ State.reset.part.ParkLaw ∧
  State.reset.part.SupplyLaw ∧ State.reset.part.RunLaw ∧ State.reset.part.Settled ∧
  State.reset.part.PanelLaw ∧ State.reset.part.ConvLaw ∧ State.reset.part.DueLaw ∧ State.reset.part.PulseLaw ∧
  ∀ i, (State.reset.part.station i).walker.state = .off ∧
    (State.reset.part.station i).ps.state = .off ∧ (State.reset.part.station i).lc.state = .dormant ∧
    (State.reset.part.station i).fx.state = none ∧ (State.reset.part.station i).fx.drive = false ∧
    (State.reset.part.station i).st = Stimulus.park

/-- A power-on reset (R199, R200): the part stands at its power-on state and in reset, memory holds what the
command brings (log 2) and a fresh reset record: cause 1, enabled 0, mask 0. `Part.reset` holds the values R199
gives; where the manual gives a block none, they are the model's choices: the levels, code and counts of the fixture
debouncers at power-on (log 3), the travel timeout in use, the ramp items and the like (log 4). -/
def Obligations.PowerOnResetRebuildsThePart : Prop :=
  ∀ (contents : List Host.Cell) (s : State), ∃ m,
    exec (.powerOnReset contents) s =
      .next { s with part := { Part.reset with mem := m, inReset := some .powerOn,
                                               portData := s.part.portData,
                                               freeCount := s.part.freeCount } } ∧
    m.word Config.resetRecord = 1 ∧ m.wf = true ∧
    (Memory.ofCells contents).SameOutside m Config.resetRecord 4

/-- What every reset leaves of a part that ran (R199, R47, R54, R74, R88, R114, R135, R145, R176, R194): `q` is
`p` after a reset whose cause is `cause`. It lasts until RESET_END, a soft reset too (the model's choice, log 21);
the start cell is kept and every item of a meter cleared (log 34). The model's choices too: that levels, code and
counts of the fixture debouncers stand (log 3), and the items to which R54 and R74 give no value at a reset, the
travel timeout in use at 5000 and the ramp items at 0 among them (log 4). -/
def Obligations.ResetsReachResetStates : Prop :=
  ∀ (s : State) (c : Instr) (cause : ResetCause),
    s.part.Runs → s.part.mem.wf = true →
    (c = .resetPinAsserted ∧ cause = .pin ∨ ∃ v, c = .softReset v ∧ asksReset v = true ∧ cause = .soft) →
    ∃ q : Part, exec c s = .next { s with part := q } ∧
      q.inReset = some cause ∧
      q.mem.word Config.resetRecord =
        word4 cause.code (bit s.part.enabled) (s.part.inFlightMask.setWidth 8) 0 ∧
      s.part.mem.SameOutside q.mem Config.resetRecord 4 ∧
      (∀ r : Register, r ≠ .ident → q.readRegister r = 0) ∧ q.attnPin = false ∧
      q.config = RackConfig.reset ∧ q.conv = Converter.reset ∧ q.sweepBase = none ∧
      q.panel.showing = none ∧ q.panel.queue = [] ∧ q.panel.display = Panel.blank ∧
      q.panel.buzzerEnd = none ∧ q.panel.lamps = Vector.replicate 4 .off ∧
      ∀ i,
        (q.station i).walker =
          { Walker.reset with run := (s.part.station i).walker.run
                              lastValue := (s.part.station i).walker.lastValue
                              lastUnit := (s.part.station i).walker.lastUnit
                              startCell := (s.part.station i).walker.startCell } ∧
        (q.station i).fx =
          { Fixture.reset with levels := (s.part.station i).fx.levels
                               code := (s.part.station i).fx.code
                               raw := (s.part.station i).fx.raw
                               codeRaw := (s.part.station i).fx.codeRaw
                               codeCount := (s.part.station i).fx.codeCount } ∧
        (q.station i).ps = Supply.reset ∧ (q.station i).st = Stimulus.park ∧
        (q.station i).lc.still = true ∧ (q.station i).aq.window = none ∧
        (q.station i).aq.meters = Vector.replicate 2 .reset ∧
        (q.station i).aq.head.scanning = false

/-- While a reset lasts the part takes no other event: every command but the resets, the end of the reset, the
GUARDLOG read, the ms of the timebase and the two changes of the fixture debouncers leaves the state as it is
(R199); that read returns an undefined word (a free value, log 12) and changes nothing else. The fixture debouncers
run on (R52; that they run through a reset: log 3): a ms counts their raw levels and moves nothing else, rack time
neither, and an input or a code that has held for the debounce time changes at the OFF station's fixture. RESET#
during another reset changes the cause and nothing else of the record (R200); the end of a reset starts rack time at
0 and leaves every block as it is (R5, R199; of a soft reset: log 21). -/
def Obligations.ResetHoldsThePart : Prop :=
  (∀ (c : Instr) (s : State), s.part.inReset.isSome = true → (∀ m, c ≠ .powerOnReset m) →
    c ≠ .resetPinAsserted → c ≠ .resetEnd → c ≠ .guardlogRead → (∀ k r, c ≠ .rackTimeTick k r) →
    (∀ i k, c ≠ .fixtureDebounceChange i k) → (∀ i d, c ≠ .fixtureCodeChange i d) → exec c s = .next s) ∧
  (∀ (s : State) (keys : RawMs 4) (fixtures : Vector FixtureRaw 4), s.part.inReset.isSome = true →
    Answers (.rackTimeTick keys fixtures) s fun p =>
      { p with stations := Vector.ofFn fun i : StationId =>
          { p.station i with fx := (p.station i).fx.countRaw p.config.fixtureDebounce fixtures[i] } }) ∧
  (∀ (s : State) (i : StationId) (k : FixtureInput), s.part.inReset.isSome = true →
    (s.part.station i).walker.state = .off → s.part.InputHeld i k →
    Answers (.fixtureDebounceChange i k) s fun p => p.setFx i fun f => f.takeInput k) ∧
  (∀ (s : State) (i : StationId) (d : BitVec 6), s.part.inReset.isSome = true → s.part.CodeHeld i d →
    Answers (.fixtureCodeChange i d) s fun p => p.setFx i fun f => f.takeCode d) ∧
  (∀ s : State, s.part.inReset.isSome = true → ∃ v,
    exec .guardlogRead s =
      .next { s with part := { s.part with portData := v, freeCount := s.part.freeCount + 1 } }) ∧
  (∀ (s : State) (first : ResetCause), s.part.inReset = some first → s.part.mem.wf = true → ∃ m,
    exec .resetPinAsserted s = .next { s with part := { s.part with mem := m, inReset := some .pin } } ∧
      m.read Config.resetRecord = 2 ∧ s.part.mem.SameOutside m Config.resetRecord 1) ∧
  (∀ (s : State) (first : ResetCause), s.part.inReset = some first →
    exec .resetEnd s = .next { s with part := { s.part with inReset := none, rackTime := 0 } })

/-! ### Laws that every step keeps -/

/-- The canonical form of exchange memory is kept by every step, and two memories in it that read alike are the
same data (log 1). -/
def Obligations.MemoryStaysCanonical : Prop :=
  (∀ s t : State, s.part.mem.wf = true → step s = .next t → t.part.mem.wf = true) ∧
  ∀ m m' : Memory, m.wf = true → m'.wf = true → (∀ a, m.read a = m'.read a) → m = m'

/-- R53: at every moment the drive command is the one the table gives for the fixture state, so that it changes
at the event that enters the state; a disable leaves the command as it was. -/
def Obligations.DriveFollowsFixtureState : Prop :=
  (∀ s t : State, s.part.DriveLaw → step s = .next t → t.part.DriveLaw) ∧
  (∀ (f : Fixture), f.driveLawful = true →
    (f.state = some .opened ∨ f.state = some .arming ∨ f.state = some .opening ∨ f.state = some .jammed →
      f.drive = false) ∧
    (f.state = some .closing ∨ f.state = some .clamped → f.drive = true)) ∧
  (∀ (s t : State) (v : Word), s.part.DriveLaw → s.part.Runs → s.part.enabled = true →
    asksReset v = false → asksEnable v = false → exec (.rackDisable v) s = .next t →
    ∀ i, (t.part.station i).fx.drive = (s.part.station i).fx.drive)

/-- R84: while a supply is OFF or TRIPPED its station's stimulus is at its park values and its line DORMANT;
every step keeps this. -/
def Obligations.DeadSupplyIsParked : Prop :=
  ∀ s t : State, s.part.ParkLaw → step s = .next t → t.part.ParkLaw

/-- R73: a live supply has a CLAMPED fixture, a part in the nest and a closed guard; every step keeps this, with
the two laws it rests on (steps only in BUSY and WAITING stations, R25; a disabled rack's stations OFF, R49). -/
def Obligations.LiveSupplyIsHeld : Prop :=
  ∀ s t : State, s.part.SupplyLaw → step s = .next t → t.part.SupplyLaw

/-- R40: an open run's taken count is the sum of the other five, plus one while a counted step is in flight, as
counts and not modulo 65,536 (R24 keeps them in range); every step keeps this at every station that is not OFF. -/
def Obligations.RunCountersKeepIdentity : Prop :=
  ∀ s t : State, s.part.RunLaw → step s = .next t → t.part.RunLaw

/-- R19: after every step the pin is asserted exactly while some bit is set in both ATTN and ATTNMASK; a write
to ATTNMASK stores all 22 bits, and but for such writes the mask stands or is 0; every reset leaves ATTNMASK 0
and the pin released. -/
def Obligations.AttnPinFollowsRegisters : Prop :=
  (∀ s t : State, s.part.Settled → step s = .next t →
    (t.part.attnPin = true ↔
      ∃ k < 22, t.part.attn.getLsbD k = true ∧ t.part.attnMask.getLsbD k = true)) ∧
  (∀ (s t : State) (v : Word), s.part.Runs → exec (.attnmaskWrite v) s = .next t →
    ∀ k < 22, t.part.attnMask.getLsbD k = v.getLsbD k) ∧
  (∀ (s t : State) (c : Instr), exec c s = .next t → (∀ v, c ≠ .attnmaskWrite v) →
    (∀ v, c ≠ .registerWriteIgnored .attnmask v) →
    (∀ k v, c = .hostMemoryWrite k v → registerAt k ≠ some .attnmask) →
    t.part.attnMask = s.part.attnMask ∨ t.part.attnMask = 0) ∧
  (∀ (s t : State) (c : Instr),
    ((∃ m, c = .powerOnReset m) ∨ (s.part.Runs ∧ c = .resetPinAsserted) ∨
      (s.part.Runs ∧ ∃ v, c = .softReset v ∧ asksReset v = true)) →
    exec c s = .next t → t.part.attnMask = 0 ∧ t.part.attnPin = false)

/-- R193: after every step each station's lamp shows the first row of the table that its station state and run
record meet. -/
def Obligations.LampsFollowStations : Prop :=
  (∀ s t : State, s.part.Settled → step s = .next t →
    ∀ i : StationId, t.part.panel.lamps[i] = stationLamp (t.part.station i).walker) ∧
  (∀ w : Walker,
    (w.state = .off → stationLamp w = .off) ∧
    (w.state = .faulted → stationLamp w = .redFlashing) ∧
    (w.state = .waiting → stationLamp w = .amberFlashing) ∧
    (w.state = .busy → stationLamp w = .amber) ∧
    (w.state = .idle ∨ w.state = .stopped →
      (w.run.state = .failed → stationLamp w = .red) ∧
      (w.run.state = .opened → 0 < w.run.failed.toNat + w.run.errored.toNat → stationLamp w = .red) ∧
      (w.run.state = .opened → w.run.failed.toNat + w.run.errored.toNat = 0 → stationLamp w = .off) ∧
      (w.run.state = .passed → stationLamp w = .green) ∧
      (w.run.state = .none ∨ w.run.state = .aborted → stationLamp w = .off))) ∧
  (∀ now : Time, (Lamp.lit .redFlashing now = true ↔ now.toNat % 1000 < 500) ∧
    (Lamp.lit .amberFlashing now = true ↔ now.toNat % 1000 < 500) ∧ Lamp.lit .red now = true ∧
    Lamp.lit .amber now = true ∧ Lamp.lit .green now = true ∧ Lamp.lit .off now = false)

/-! ### Publication and memory -/

/-- Closing an event changes nothing of the part it closes but header bytes, the pin, the lamps and the event's
marks (the model's own, log 15), which it drops; the header of a station whose column the event left as it was,
with no mark, stands as the event left it (R20, R52, R73, R87, R113). -/
def Obligations.CommitChangesHeadersOnly : Prop :=
  ∀ p q : Part,
    Part.commit p q =
      { q with mem := (Part.commit p q).mem, attnPin := pinAsserted q.attn q.attnMask
               panel := { q.panel with lamps := q.lampsNow }, touched := p.touched } ∧
    q.mem.SameOutsideHeaders (Part.commit p q).mem ∧
    ∀ i, ((q.station i = p.station i ∧ q.touched[i] = p.touched[i]) ∨
        ((p.station i).walker.state = .off ∧ (q.station i).walker.state = .off)) →
      ∀ a, InHeader i a → (Part.commit p q).mem.read a = q.mem.read a

/-- Publication keeps a header true: where the header held every word of a station's blocks before an event that
itself wrote no header byte, but for words the event has marked, it holds every word after it (R20, R52, R73, R87,
R113). Every change of a column marks each word it moves, and marks stay until the event closes, so that a word
that comes back within an event is written again (log 15); a word of which no item has changed keeps what it holds,
a host's write too. -/
def Obligations.CommitPublishesChanges : Prop :=
  (∀ (p q : Part) (i : StationId), q.mem.wf = true →
    ¬((p.station i).walker.state = .off ∧ (q.station i).walker.state = .off) →
    (∀ w ∈ (p.station i).header, q.mem.word (Config.page i + w.1) = w.2 ∨
      (q.touched[i].getLsbD (w.1 / 4) = true ∧ p.touched[i].getLsbD (w.1 / 4) = false)) →
    ∀ w ∈ (q.station i).header, (Part.commit p q).mem.word (Config.page i + w.1) = w.2) ∧
  (∀ (p q : Part) (i : StationId), ∀ c ∈ (q.station i).header.zip (p.station i).header, c.1.2 = c.2.2 →
    q.touched[i].getLsbD (c.1.1 / 4) = p.touched[i].getLsbD (c.1.1 / 4) →
    (Part.commit p q).mem.word (Config.page i + c.1.1) = q.mem.word (Config.page i + c.1.1)) ∧
  (∀ (p : Part) (i : StationId) (f : Station → Station),
    (∀ c ∈ (f (p.station i)).header.zip (p.station i).header, c.1.2 ≠ c.2.2 →
      (p.modify i f).touched[i].getLsbD (c.1.1 / 4) = true) ∧
    ∀ (j : StationId) (k : Nat), p.touched[j].getLsbD k = true → (p.modify i f).touched[j].getLsbD k = true)

/-! ### The host port (01) -/

/-- R1: a host write to a word of exchange memory that is no cell state word stores the whole word and changes
no other byte and no block. -/
def Obligations.HostWritesAreStored : Prop :=
  ∀ (s : State) (index : BitVec 14) (v : Word), s.part.Runs → s.part.mem.wf = true →
    plainWord index = true → ∃ m,
      Leaves (.hostMemoryWrite index v) s { s.part with mem := m } ∧
      m.word (4 * index.toNat) = v ∧ s.part.mem.SameOutside m (4 * index.toNat) 4 ∧
      ({ s.part with mem := m } : Part).settle.hostRead index = v

/-- R9: an accepted write to a cell state word stores the whole word and nothing else; any other pairing is
refused: no byte is stored, GUARDLOG records it, ATTN.GUARD is raised and nothing else changes. The other
fifteen words of a cell are stored whatever the cell's state. -/
def Obligations.GuardChecksHostWrites : Prop :=
  (∀ (s : State) (i : StationId) (c : CellId) (v : Word), s.part.Runs → s.part.mem.wf = true →
    (R9Accepts (s.part.cellState i c) (v.setWidth 8) → ∃ m,
      Leaves (.hostCellStateWrite i c v) s { s.part with mem := m } ∧
      m.word (Config.cell i c) = v ∧ s.part.mem.SameOutside m (Config.cell i c) 4) ∧
    (¬R9Accepts (s.part.cellState i c) (v.setWidth 8) → ∃ g,
      Leaves (.hostCellStateWrite i c v) s
        { s.part with guardLog := g, attn := s.part.attn ||| (1#22 <<< 20) })) ∧
  (∀ (s : State) (i : StationId) (c : CellId) (n : Nat) (v : Word), s.part.Runs → s.part.mem.wf = true →
    1 ≤ n → n ≤ 15 → ∃ m,
      Leaves (.hostMemoryWrite (BitVec.ofNat 14 ((Config.cell i c + 4 * n) / 4)) v) s
        { s.part with mem := m } ∧
      m.word (Config.cell i c + 4 * n) = v ∧ s.part.mem.SameOutside m (Config.cell i c + 4 * n) 4)

/-- R11: a refusal sets OFFSET, WRITTEN, FOUND and MULTI and raises ATTN.GUARD; a read returns the fields, sets
every field to 0 and leaves ATTN; GUARDLOG reads 0 after every reset. -/
def Obligations.GuardLogKeepsLastRefusal : Prop :=
  (∀ (s : State) (i : StationId) (c : CellId) (v : Word), s.part.Runs →
    ¬R9Accepts (s.part.cellState i c) (v.setWidth 8) →
    Leaves (.hostCellStateWrite i c v) s
      { s.part with
        guardLog :=
          { offset := BitVec.ofNat 16 (Config.cell i c), written := v.setWidth 8
            found := if 5 < (s.part.cellState i c).toNat then 7 else (s.part.cellState i c).setWidth 3
            multi := decide (s.part.guardLog.offset ≠ 0) }
        attn := s.part.attn ||| (1#22 <<< 20) } ∧
    Config.cell i c ≠ 0 ∧ Config.cell i c < 2 ^ 16) ∧
  (∀ s : State, s.part.Runs →
    exec .guardlogRead s =
      .next { s with part := { s.part with portData := s.part.guardLog.word, guardLog := .empty } }) ∧
  (∀ g : GuardLog, g.word.extractLsb' 0 16 = g.offset ∧ g.word.extractLsb' 16 8 = g.written ∧
    g.word.extractLsb' 24 3 = g.found ∧ g.word.getLsbD 31 = g.multi ∧ g.word.extractLsb' 27 4 = 0) ∧
  GuardLog.empty.word = 0 ∧
  (∀ (s t : State) (c : Instr),
    ((∃ m, c = .powerOnReset m) ∨ (s.part.Runs ∧ c = .resetPinAsserted) ∨
      (s.part.Runs ∧ ∃ v, c = .softReset v ∧ asksReset v = true)) →
    exec c s = .next t → t.part.guardLog = .empty)

/-- Register writes: IDENT, RACKTIME and GUARDLOG ignore them (R4); ATTN clears the causes written as 1 (R18);
ATTNMASK stores the 22 bits (R19); RACKCTL with ENABLE as it reads stores SWEEPMODE and starts or stops the
sweep timer (R6, R15). Register reads, while no reset lasts: a host read of a register's word returns that register,
IDENT its fixed value, RACKCTL its ENABLE and SWEEPMODE, SWEEP 0, STNCTL the four station state codes (R7), ATTN and
ATTNMASK their 22 bits, RACKTIME rack time (R5); every unused bit reads 0 (R4). The reads are stated of `Part.hostRead`,
a function of any part, which is what a host read returns while no reset lasts. R199 gives a host read no defined value
while a reset lasts, and these clauses say nothing of one (log 12 makes it a free value). -/
def Obligations.RegisterWritesTakeTheirBits : Prop :=
  (∀ p : Part,
    let read := fun n : Nat => p.hostRead (BitVec.ofNat 14 (0xFFE0 / 4 + n))
    read 0 = 0x24040001 ∧
    (∀ k < 32, (read 1).getLsbD k = if k = 0 then p.enabled else if k = 1 then p.sweepRequested else false) ∧
    read 2 = 0 ∧
    (∀ i : StationId, ((read 3).extractLsb' (4 * i.val) 4).toNat =
      match (p.station i).walker.state with
      | .off => 0 | .idle => 1 | .busy => 2 | .waiting => 3 | .stopped => 4 | .faulted => 5) ∧
    (read 3).extractLsb' 16 16 = 0 ∧
    (∀ k < 32, (read 4).getLsbD k = if k < 22 then p.attn.getLsbD k else false) ∧
    (∀ k < 32, (read 5).getLsbD k = if k < 22 then p.attnMask.getLsbD k else false) ∧
    read 6 = p.rackTime ∧ read 7 = p.guardLog.word ∧
    read 0 = p.readRegister .ident ∧ read 1 = p.readRegister .rackctl ∧ read 2 = p.readRegister .sweep ∧
    read 3 = p.readRegister .stnctl ∧ read 4 = p.readRegister .attn ∧ read 5 = p.readRegister .attnmask ∧
    read 6 = p.readRegister .racktime ∧ read 7 = p.readRegister .guardlog) ∧
  (∀ (s : State) (r : Register) (v : Word), s.part.Runs → ignoresWrites r = true →
    Leaves (.registerWriteIgnored r v) s s.part) ∧
  (∀ (s : State) (v : Word), s.part.Runs →
    Leaves (.attnClear v) s { s.part with attn := s.part.attn &&& ~~~(v.setWidth 22) }) ∧
  (∀ (s : State) (v : Word), s.part.Runs →
    Leaves (.attnmaskWrite v) s { s.part with attnMask := v.setWidth 22 }) ∧
  (∀ (s : State) (v : Word), s.part.Runs → asksReset v = false → asksEnable v = s.part.enabled →
    Leaves (.sweepmodeWrite v) s
      { s.part with
        sweepRequested := v.getLsbD 1
        sweepBase :=
          if s.part.enabled = false ∨ v.getLsbD 1 = true then none
          else if s.part.sweepRequested = true then some s.part.rackTime
          else s.part.sweepBase })

/-! ### Enable and disable (11) -/

/-- R194, R195: an enable that finds an invalid field writes the configuration error record, the first field found
invalid in it, and leaves ENABLE 0, every block and every other byte as they are. The fields are checked in address
order, those of the rack first, then station by station those of the stations in the mask read, each against the
ranges of section 11.1; a failing pair of lamp thresholds names the off threshold (12.2). -/
def Obligations.EnableRefusedWritesError : Prop :=
  (∀ (s : State) (v : Word) (raw : RawLevels) (e : ConfigError), s.part.Runs → s.part.mem.wf = true →
    s.part.enabled = false → asksReset v = false → asksEnable v = true → s.part.validate = some e → ∃ m,
      Leaves (.rackEnable v raw) s
        { s.part with mem := m, sweepRequested := v.getLsbD 1, sweepBase := none } ∧
      m.readLE Config.configError 2 = e.offset % 65536 ∧
      m.read (Config.configError + 2) = n8 e.station ∧ m.read (Config.configError + 3) = n8 e.code ∧
      s.part.mem.SameOutside m Config.configError 4) ∧
  ∀ p : Part,
    let b := fun x : Nat => (p.mem.read x).toNat
    let h := fun x : Nat => b x + 256 * b (x + 1)
    let outside := fun low high v : Nat => v < low ∨ high < v
    let rackBad := fun x : Nat =>
      (x = 0 ∧ outside 0 15 (b 0)) ∨ (x = 1 ∧ outside 1 255 (b 1)) ∨ (x = 2 ∧ outside 1 50 (b 2)) ∨
      (x = 3 ∧ outside 5 50 (b 3)) ∨ (x = 4 ∧ outside 100 1000 (h 4)) ∨
      (x = 6 ∧ outside 0 63 (b 6) ∧ b 6 ≠ 255)
    let stationBad := fun (i : StationId) (n : Nat) =>
      let c := fun n : Nat => b (Config.stationConfig i + n)
      (n = 0 ∧ outside 1 8191 (h (Config.stationConfig i))) ∨ (n = 2 ∧ outside 1 2 (c 2)) ∨
      (n = 3 ∧ outside 2 30 (c 3)) ∨ ((n = 4 ∨ n = 5) ∧ outside 1 8 (c n)) ∨ (n = 8 ∧ c 7 ≤ c 8) ∨
      (n = 9 ∧ outside 0 31 (c 9)) ∨ (10 ≤ n ∧ n < 18 ∧ outside 0 3 (c n)) ∨
      (18 ≤ n ∧ n < 26 ∧ outside 0 2 (c n))
    let enabled := fun i : StationId => p.readMask.getLsbD i.val = true
    (∀ i : StationId, enabled i ↔ b 0 / 2 ^ i.val % 2 = 1) ∧
    (p.validate = none ↔ (∀ x, ¬rackBad x) ∧ ∀ i n, enabled i → ¬stationBad i n) ∧
    ∀ e : ConfigError, p.validate = some e ↔
      (e.code = 1 ∧ e.station = 0 ∧ rackBad e.offset ∧ ∀ x < e.offset, ¬rackBad x) ∨
      (e.code = 2 ∧ (∀ x, ¬rackBad x) ∧ ∃ (i : StationId) (n : Nat), e.station = i.val ∧
        e.offset = Config.stationConfig i + n ∧ enabled i ∧ stationBad i n ∧
        (∀ m < n, ¬stationBad i m) ∧ ∀ j < i, enabled j → ∀ m, ¬stationBad j m)

/-- R48, R54, R74, R114, R145, R146, R176, R194 to R197: an enable that passes validation sets ENABLE, latches the
configuration, brings up the stations of the mask at their start cells and leaves the others with their pages, starts
the reference check, shows no entry and starts the sweep timer. At each station of the mask it recovers the cells and
the run record read back from the header, ATTN.RUN raised for each run it closes, and zeroes the reception table and
the lamp image; it writes the configuration error record to 0. -/
def Obligations.EnableBringsStationsUp : Prop :=
  ∀ (s : State) (v : Word) (raw : RawLevels), s.part.Runs → s.part.mem.wf = true →
    s.part.enabled = false → asksReset v = false → asksEnable v = true → s.part.validate = none →
    ∃ q : Part, exec (.rackEnable v raw) s = .next { s with part := q } ∧
      q.enabled = true ∧ q.config = s.part.readRackConfig ∧ q.rackTime = s.part.rackTime ∧
      q.sweepRequested = v.getLsbD 1 ∧
      q.sweepBase = (if v.getLsbD 1 = true then none else some s.part.rackTime) ∧
      q.conv.refCheck = some ⟨0, 0, 0⟩ ∧ q.conv.lastGranted = 3 ∧ q.conv.refFlag = false ∧
      q.panel.showing = none ∧ q.panel.queue = [] ∧ q.attnMask = s.part.attnMask ∧
      q.guardLog = s.part.guardLog ∧
      q.mem.readLE Config.configError 4 = 0 ∧
      q.attn = ([0, 1, 2, 3] : List StationId).foldl (fun a i =>
        if s.part.readMask.getLsbD i.val = true ∧ (s.part.readRun i).state = .opened then
          a ||| (1#22 <<< (5 * i.val + 1))
        else a) s.part.attn ∧
      ∀ i,
        (s.part.readMask.getLsbD i.val = false → q.station i = s.part.station i ∧
          s.part.mem.SameIn q.mem (Config.page i) 0x1400) ∧
        (s.part.readMask.getLsbD i.val = true →
          (∀ (c : CellId) (n : Nat), n < 64 →
            q.mem.read (Config.cell i c + n) = (s.part.recoverCells i).mem.read (Config.cell i c + n)) ∧
          (q.station i).walker.run = ((s.part.recoverRun i).station i).walker.run ∧
          (∀ n < 512, q.mem.read (Config.receptionEntry i 0 + n) = 0) ∧
          (∀ n < 512, q.mem.read (Config.lampRecord i 0 + n) = 0) ∧
          (q.station i).walker.state = .idle ∧ (q.station i).walker.position = s.part.startCell i ∧
          (q.station i).walker.step = none ∧ (q.station i).walker.rerun = none ∧
          (q.station i).walker.holdReason = .ok ∧ (q.station i).walker.run.state ≠ .opened ∧
          (q.station i).fx.levels = (s.part.station i).fx.levels ∧
          (q.station i).fx.captured = none ∧ (q.station i).fx.travelTimeout = 5000 ∧
          (q.station i).fx.drive = false ∧
          (if (s.part.station i).fx.levels.opened = true then
            (q.station i).fx.state = some .opened ∧ (q.station i).fx.travelStart = none
           else (q.station i).fx.state = some .opening ∧
            (q.station i).fx.travelStart = some s.part.rackTime) ∧
          (q.station i).ps = (s.part.station i).ps ∧ (q.station i).st = (s.part.station i).st ∧
          (q.station i).lc.state = .dormant ∧ (q.station i).lc.schedule = none ∧
          (q.station i).lc.divisor = s.part.u16 (Config.stationConfig i) ∧
          (q.station i).aq.meters = Vector.replicate 2 .reset ∧
          (q.station i).aq.head.pending = true ∧
          ∀ k : Fin 8, (q.station i).aq.inputs[k].level = raw.inputs[i].getLsbD k.val ∧
            (q.station i).aq.inputs[k].edges = 0)

/-- R48, R197: the recovery abandons with INTERRUPTED every cell found ACTIVE or WAITING and leaves every other cell's
bytes; other bytes of the cell stand. The run record is read back from the header, a run state outside the table giving
the record of a header never written. One found OPEN has abandoned raised to the identity of R40 where taken exceeds
the sum, and is closed FAILED or ABORTED at the present rack time with ATTN.RUN; one in any other state is left. -/
def Obligations.EnableRecoversCutCells : Prop :=
  (∀ (p : Part) (i : StationId),
    let x := Config.page i
    let u := p.readRun i
    (4 < (p.mem.read (x + 0x0C)).toNat → u = RunRecord.never) ∧
    ((p.mem.read (x + 0x0C)).toNat ≤ 4 →
      u.state.code = p.mem.read (x + 0x0C) ∧ u.serviceDue = p.mem.read (x + 0x0D) ∧
      u.firstCell = p.mem.read (x + 0x0E) ∧ u.firstReason = p.mem.read (x + 0x0F) ∧
      u.number.toNat = p.mem.readLE (x + 0x10) 2 ∧ u.taken.toNat = p.mem.readLE (x + 0x12) 2 ∧
      u.passed.toNat = p.mem.readLE (x + 0x14) 2 ∧ u.failed.toNat = p.mem.readLE (x + 0x16) 2 ∧
      u.errored.toNat = p.mem.readLE (x + 0x18) 2 ∧ u.unjudged.toNat = p.mem.readLE (x + 0x1A) 2 ∧
      u.abandoned.toNat = p.mem.readLE (x + 0x1C) 2 ∧ u.firstSeq.toNat = p.mem.readLE (x + 0x1E) 2 ∧
      u.fixtureCode = p.mem.read (x + 0x20) ∧ u.traceCount = p.mem.read (x + 0x21) ∧
      u.traceFull = p.mem.read (x + 0x22) ∧ u.startTime.toNat = p.mem.readLE (x + 0x24) 4 ∧
      u.endTime.toNat = p.mem.readLE (x + 0x28) 4)) ∧
  (∀ (p : Part) (i : StationId),
    let u := p.readRun i
    let sum := u.passed.toNat + u.failed.toNat + u.errored.toNat + u.unjudged.toNat + u.abandoned.toNat
    let q := p.recoverRun i
    q = { p with attn := q.attn, stations := q.stations, touched := q.touched } ∧ p.OthersStand q i ∧
    (u.state ≠ .opened → q.attn = p.attn ∧
      q.station i = { p.station i with walker := { (p.station i).walker with run := u } }) ∧
    (u.state = .opened → q.attn = p.attn ||| (1#22 <<< (5 * i.val + 1)) ∧
      ∃ n : BitVec 16,
        n.toNat = (if sum < u.taken.toNat then u.abandoned.toNat + (u.taken.toNat - sum)
                   else u.abandoned.toNat) ∧
        let closed := { u with
          abandoned := n, endTime := p.rackTime
          state := if 0 < u.failed.toNat + u.errored.toNat then .failed else .aborted }
        q.station i = { p.station i with walker := { (p.station i).walker with run := closed } })) ∧
  ∀ (p : Part) (i : StationId), p.mem.wf = true →
    (p.recoverCells i).mem.wf = true ∧ p.recoverCells i = { p with mem := (p.recoverCells i).mem } ∧
    (∀ c : CellId,
      if p.cellState i c = cellActive ∨ p.cellState i c = cellWaiting then
        (p.recoverCells i).cellState i c = cellAbandoned ∧
        (p.recoverCells i).mem.read (Config.cell i c + 36) = Verdict.none.code ∧
        (p.recoverCells i).mem.read (Config.cell i c + 37) = Reason.interrupted.code ∧
        (p.recoverCells i).mem.readLE (Config.cell i c + 60) 4 = 0 ∧
        ∀ n < 64, n ≠ 0 → n ≠ 36 → n ≠ 37 → n < 60 →
          (p.recoverCells i).mem.read (Config.cell i c + n) = p.mem.read (Config.cell i c + n)
      else
        ∀ n < 64, (p.recoverCells i).mem.read (Config.cell i c + n) = p.mem.read (Config.cell i c + n)) ∧
    ∀ a, a < Config.cell i 0 ∨ Config.cell i 31 + 64 ≤ a → (p.recoverCells i).mem.read a = p.mem.read a

/-- R198, R74, R84, R43, R49, R136, R176: a disable takes every station that is not OFF down and leaves the others:
supply OFF, stimulus parked, line DORMANT, station OFF; the cells of a step in flight and of a re-run beside it are
ABANDONED with DISABLED, and their blocks hold nothing for them; a step counted in an open run counts as abandoned, and
an OPEN run is closed FAILED or ABORTED by its counters at the present rack time with ATTN.RUN raised, any other left;
the panel is empty and silent with its image of spaces written, the converter queue empty, the sweep timer stopped. -/
def Obligations.DisableTakesStationsDown : Prop :=
  ∀ (s : State) (v : Word), s.part.Runs → s.part.enabled = true → asksReset v = false →
    asksEnable v = false → ∃ q : Part,
      exec (.rackDisable v) s = .next { s with part := q } ∧
      q.enabled = false ∧ q.sweepRequested = v.getLsbD 1 ∧ q.sweepBase = none ∧
      q.config = s.part.config ∧ q.rackTime = s.part.rackTime ∧ q.attnMask = s.part.attnMask ∧
      q.panel.showing = none ∧ q.panel.queue = [] ∧ q.panel.buzzerEnd = none ∧
      q.panel.display = Panel.blank ∧
      (s.part.mem.wf = true → ∀ n < 48, q.mem.read (Config.displayImage + n) = 0x20) ∧
      q.conv.refCheck = none ∧ (∀ j : StationId, q.conv.queue[j] = none) ∧
      q.attn = ([0, 1, 2, 3] : List StationId).foldl (fun a i =>
        let w := (s.part.station i).walker
        if w.state ≠ .off ∧ w.run.state = .opened then a ||| (1#22 <<< (5 * i.val + 1)) else a) s.part.attn ∧
      ∀ i,
        ((s.part.station i).walker.state = .off → q.station i = s.part.station i) ∧
        ((s.part.station i).walker.state ≠ .off →
          (let w := (s.part.station i).walker
           let counted := w.run.state = .opened ∧ ∃ t, w.step = some t ∧ t.counted = true
           (∀ t, w.step = some t ∨ w.rerun = some t →
            q.Withdrawn i t.work ∧ (s.part.mem.wf = true → q.CellAbandoned i t.cell .disabled)) ∧
           ∃ abandoned : BitVec 16,
            (counted → abandoned = w.run.abandoned + 1) ∧ (¬counted → abandoned = w.run.abandoned) ∧
            (w.run.state ≠ .opened → (q.station i).walker.run = w.run) ∧
            (w.run.state = .opened → (q.station i).walker.run =
              { w.run with
                abandoned := abandoned, endTime := s.part.rackTime
                state := if 0 < w.run.failed.toNat + w.run.errored.toNat then .failed else .aborted })) ∧
          (q.station i).aq.window = none ∧
          (∀ n : Fin 2, (q.station i).aq.meters[n].state = .idle) ∧
          (q.station i).walker.state = .off ∧ (q.station i).walker.holdReason = .ok ∧
          (q.station i).walker.step = none ∧ (q.station i).walker.rerun = none ∧
          (q.station i).walker.run.state ≠ .opened ∧ (q.station i).ps.state = .off ∧
          ((s.part.station i).ps.state ≠ .off →
            (q.station i).ps.commanded = 0 ∧ (q.station i).st = Stimulus.park ∧
            (q.station i).lc.still = true) ∧
          (q.station i).fx.levels = (s.part.station i).fx.levels ∧
          (q.station i).fx.travelStart = none ∧ (q.station i).fx.handTimer = none ∧
          (q.station i).aq.head.scanning = false)

/-! ### The station walkers (02) -/

/-- R16, R17, R21, R23, R31: a write to SWEEP while the rack is enabled, and the sweep timer's interval passing, raise
one sweep; a write while it is disabled raises none. A sweep reaches the stations in their order (log 5), leaves one
that is not IDLE as it is, and has an IDLE one examine the cell at its position: a run at the length limit stops it
(R24), a cell that is not READY leaves it IDLE at the same position, and a READY one is taken and the step's checks and
work begin. A step that does not end at once is in flight; one that does completes, and stops the station or has it
examine its next cell. A ring of 32 cells has at most 32 READY ones, so that 33 examinations are all an event makes. -/
def Obligations.SweepsReachIdleStations : Prop :=
  (∀ (s : State) (v : Word), s.part.Runs → s.part.enabled = true →
    Answers (.sweepWrite v) s Part.sweep) ∧
  (∀ (s : State) (v : Word), s.part.Runs → s.part.enabled = false → Leaves (.sweepWrite v) s s.part) ∧
  (∀ (s : State) (start : Time), s.part.Runs → s.part.sweepBase = some start →
    s.part.config.sweepInterval ≤ s.part.since start →
    Answers .periodicSweep s fun p => { p with sweepBase := some p.rackTime }.sweep) ∧
  (∀ (p : Part) (i : StationId), (p.station i).walker.state ≠ .idle → p.sweep.station i = p.station i) ∧
  (∀ p : Part,
    (∀ i, (p.station i).walker.state = .idle → p.RingWaits i ∧ (p.station i).walker.holdReason = .ok) →
    p.sweep = p) ∧
  (∀ p : Part, p.sweep = ([0, 1, 2, 3] : List StationId).foldl (fun q i =>
    if (q.station i).walker.state = .idle then Part.examine 33 q i else q) p) ∧
  (∀ (p : Part) (i : StationId), p.chain i = Part.examine 33 p i) ∧
  (∀ (n : Nat) (p : Part) (i : StationId),
    let w := (p.station i).walker
    let full := w.run.state = .opened ∧ w.run.taken = 65535
    let began := (p.takeStep i).1.startStep i (p.takeStep i).2
    let stopped := fun (q : Part) (r : Reason) =>
      { q.setWalker i (fun v => { v with state := .stopped, holdReason := r }) with
        attn := q.attn ||| (1#22 <<< (5 * i.val + 2)) }
    (full → Part.examine (n + 1) p i = stopped p .runOpen) ∧
    (¬full → p.cellState i w.position ≠ cellReady →
      Part.examine (n + 1) p i = p.setWalker i fun v => { v with state := .idle, holdReason := .ok }) ∧
    (¬full → p.cellState i w.position = cellReady → began.2 = none → Part.examine (n + 1) p i = began.1) ∧
    ∀ (r : Result) (t : Step), ¬full → p.cellState i w.position = cellReady → began.2 = some r →
      (began.1.station i).walker.step = some t →
      let q := began.1.completeMain i t r
      let stops := r.verdict = .error ∨
        (r.verdict = .fail ∧ (hasFlag t.flags flagStopFail = true ∨ r.reason = .operatorStop))
      (stops → Part.examine (n + 1) p i = stopped q r.reason) ∧
      (¬stops → Part.examine (n + 1) p i = Part.examine n q i)) ∧
  ∀ (p : Part) (i : StationId), (p.station i).walker.state = .idle →
    (∀ j, j ≠ i → (p.station j).walker.state ≠ .idle) →
    p.cellState i (p.station i).walker.position = cellReady →
    ¬((p.station i).walker.run.state = .opened ∧ (p.station i).walker.run.taken = 65535) →
    p.mem.read (Config.cell i (p.station i).walker.position + 1) = 0x03 →
    (let d := p.u32 (Config.cell i (p.station i).walker.position + 4)
     1 ≤ d ∧ d ≤ 600000) →
    p.sweep = (p.takeStep i).1.setWork i (.wait (p.u32 (Config.cell i (p.station i).walker.position + 4)))

/-- R21, R22, R25: a take makes the cell ACTIVE, keeps the rest of its state word and its parameters, writes its
opening results, copies the step, counts it if a run is open, and moves the position on. Then the step's checks run in
their order, the first failure ending it at once, and its work starts: a kind code outside 12.7's table ends with ERROR
BAD_KIND (R23); a WAIT of 1 to 600,000 ms waits, any other ends with ERROR BAD_PARAM (R45); a SET whose class, index or
idle level is outside its table ends with ERROR BAD_PARAM, and a good one at a supply that is not live with NO_SUPPLY
(R89; the rest of SET: StimulusRampsStep, DiscreteLinesAreSet); a good BEGIN opens a run with the record R41
gives and rewrites its cell's run number and sequence; END counts itself, closes the run and hands a RELEASE it asks
for to the fixture (R42); RELEASE opens a CLAMPED fixture, joins an opening one and is complete at an OPEN one (R62);
CONTACT clears the 32 contact results and routes pin 0 (R68, R69); MEASURE admits its parameters and starts its first
attempt, or is held until the lamp head's identity read has ended (R161, R196); LISTEN records the sequence of its
entry and hears (R169; at a line whose schedule a STOP has cleared, the table's entry: log 18); PROMPT places its
entry and waits (R177). -/
def Obligations.TakeWritesOpeningResults : Prop :=
  (∀ (p : Part) (i : StationId), p.mem.wf = true →
    let w := (p.station i).walker
    let x := Config.cell i w.position
    let opened := decide (w.run.state = .opened)
    let q := (p.takeStep i).1
    let t := (p.takeStep i).2
    q = { p with mem := q.mem, stations := q.stations, touched := q.touched } ∧ p.OthersStand q i ∧
    q.mem.read x = cellActive ∧
    (∀ n < 14, q.mem.read (x + 36 + n) = 0) ∧
    q.mem.readLE (x + 50) 2 = (if opened then w.run.taken + 1 else 0).toNat ∧
    q.mem.readLE (x + 52) 2 = (if opened then w.run.number else 0).toNat ∧
    q.mem.readLE (x + 54) 2 = 0 ∧ q.mem.readLE (x + 56) 4 = p.rackTime.toNat ∧
    q.mem.readLE (x + 60) 4 = 0 ∧
    (∀ a, a ≠ x → ¬(x + 36 ≤ a ∧ a < x + 64) → q.mem.read a = p.mem.read a) ∧
    t = { cell := w.position, kind := p.mem.read (x + 1), flags := p.mem.read (x + 2)
          tag := p.mem.read (x + 3), params := BitVec.ofNat 256 (p.mem.readLE (x + 4) 32)
          takeTime := p.rackTime, counted := opened, work := .none } ∧
    q.station i =
      { p.station i with
        walker := { w with state := .busy, position := w.position + 1, current := some w.position
                           step := some t, holdReason := .ok
                           run := if opened then { w.run with taken := w.run.taken + 1 } else w.run } }) ∧
  (∀ (code : Byte) (kind : Kind), Kind.ofCode code = some kind ↔ code =
    match kind with
    | .begin => 0x01 | .finish => 0x02 | .wait => 0x03 | .clamp => 0x10 | .release => 0x11 | .contact => 0x12
    | .power => 0x18 | .set => 0x20 | .send => 0x28 | .measure => 0x30 | .listen => 0x38 | .prompt => 0x40) ∧
  (∀ (p : Part) (i : StationId) (t : Step), Kind.ofCode t.kind = none →
    p.startStep i t = (p, some (.error .badKind))) ∧
  (∀ (p : Part) (i : StationId) (t : Step), Kind.ofCode t.kind = some .wait →
    let d := field t.params 4 4
    (d < 1 ∨ 600000 < d → p.startStep i t = (p, some (.error .badParam))) ∧
    (1 ≤ d → d ≤ 600000 → p.startStep i t = (p.setWork i (.wait d), none))) ∧
  (∀ (p : Part) (i : StationId) (t : Step), Kind.ofCode t.kind = some .set →
    (setParams t.params = none → p.startStep i t = (p, some (.error .badParam))) ∧
    (∀ m, setParams t.params = some m → (p.station i).ps.live = false →
      p.startStep i t = (p, some (.error .noSupply)))) ∧
  (∀ (q : BitVec 256) (m : SetParams), setParams q = some m ↔
    (let cls := field q 4 1
     let index := field q 5 1
     let start := if field q 7 1 = 0 then none else some (field q 20 4)
     match m with
     | .pg k frequency duty idle rate from_ => cls = 0 ∧ index = k.val ∧ field q 6 1 ≤ 1 ∧
        frequency = field q 8 4 ∧ duty = field q 12 2 ∧ idle = decide (field q 6 1 = 1) ∧
        rate = field q 16 4 ∧ from_ = start
     | .lv k ohms rate from_ => cls = 1 ∧ index = k.val ∧ ohms = field q 8 2 ∧ rate = field q 16 4 ∧
        from_ = start
     | .dl mask bits => cls = 2 ∧ index = 0 ∧ mask.toNat = field q 12 2 ∧ bits.toNat = field q 8 2
     | .mv k value => cls = 3 ∧ index = k.val ∧ value.toNat = field q 8 2)) ∧
  (∀ (p : Part) (i : StationId) (t : Step), Kind.ofCode t.kind = some .begin →
    let x := p.station i
    let wanted := field t.params 4 1
    let code := x.fx.code
    let due := decide (p.serviceLimit code.toNat ≠ 0 ∧ p.serviceLimit code.toNat ≤ p.cycleCount code.toNat)
    let number := if x.walker.run.number = 65535 then 1 else x.walker.run.number + 1
    (62 < wanted → wanted ≠ 255 → p.startStep i t = (p, some (.error .badParam))) ∧
    (wanted ≤ 62 ∨ wanted = 255 →
      (x.walker.run.state = .opened → p.startStep i t = (p, some (.error .runOpen))) ∧
      (x.walker.run.state ≠ .opened → code = 63 → p.startStep i t = (p, some (.error .noFixture))) ∧
      (x.walker.run.state ≠ .opened → code ≠ 63 → wanted ≠ 255 → wanted ≠ code.toNat →
        p.startStep i t = (p, some (.error .wrongFixture))) ∧
      (x.walker.run.state ≠ .opened → code ≠ 63 → wanted = 255 ∨ wanted = code.toNat →
        let q := (p.startStep i t).1
        (p.startStep i t).2 = some (.done (if due then resServiceDue else 0) number.toNat code.toNat) ∧
        q.station i = { x with walker := { x.walker with run :=
          { state := .opened, number := number, taken := 1, passed := 0, failed := 0, errored := 0
            unjudged := 1, abandoned := 0, firstCell := 255, firstReason := 0, firstSeq := 0
            fixtureCode := code.setWidth 8, serviceDue := if due then 1 else 0, startTime := p.rackTime
            endTime := 0, traceCount := 0, traceFull := 0 } } } ∧
        q.mem = (p.mem.writeLE (Config.cell i t.cell + 50) 2 1).writeLE (Config.cell i t.cell + 52) 2
          number.toNat ∧
        q = { p with mem := q.mem, stations := q.stations, touched := q.touched } ∧ p.OthersStand q i))) ∧
  (∀ (p : Part) (i : StationId) (t : Step), Kind.ofCode t.kind = some .finish →
    let x := p.station i
    let u := x.walker.run
    let ending := if u.failed = 0 ∧ u.errored = 0 ∧ u.abandoned = 0 then RunState.passed else .failed
    let closed := (p.setWalker i fun w =>
      { w with run := { u with unjudged := u.unjudged + 1, state := ending, endTime := p.rackTime }
               step := w.step.map fun v => { v with counted := false } }).raise (.run i)
    let done := fun r : Reason =>
      ({ verdict := .none, reason := r, flags := 0, value := u.taken.toNat, aux := ending.code.toNat
         attempts := 0, unit := 0 } : Result)
    (u.state ≠ .opened → p.startStep i t = (p, some (.error .notInRun))) ∧
    (u.state = .opened → field t.params 4 1 = 0 → p.startStep i t = (closed, some (done .ok))) ∧
    (u.state = .opened → field t.params 4 1 ≠ 0 → x.ps.state ≠ .off →
      p.startStep i t = (closed, some (done .supplyOn))) ∧
    (u.state = .opened → field t.params 4 1 ≠ 0 → x.ps.state = .off →
      let work := Work.endRelease u.taken.toNat ending.code.toNat
      (x.fx.state = some .opened → p.startStep i t = (closed, some (done .ok))) ∧
      (x.fx.state = some .opening → p.startStep i t = (closed.setWork i work, none)) ∧
      (x.fx.state = some .clamped → p.startStep i t =
        ((closed.setFx i fun f =>
          { f with state := some .opening, drive := false, travelStart := some p.rackTime, handTimer := none
                   twoHand := false, lockedOut := false, firstPress := none }).setWork i work, none)))) ∧
  (∀ (p : Part) (i : StationId) (t : Step), Kind.ofCode t.kind = some .release →
    let x := p.station i
    (x.ps.state ≠ .off → p.startStep i t = (p, some (.error .supplyOn))) ∧
    (x.ps.state = .off →
      (∀ code : BitVec 6, x.fx.state = some .opened → x.fx.captured = some code → t.takeTime = p.rackTime →
        p.startStep i t = (p, some (.done 0 0 code.toNat))) ∧
      (x.fx.state = some .opening → p.startStep i t = (p.setWork i .release, none)) ∧
      (x.fx.state = some .clamped → p.startStep i t =
        ((p.setFx i fun f =>
          { f with state := some .opening, drive := false, travelStart := some p.rackTime, handTimer := none
                   twoHand := false, lockedOut := false, firstPress := none }).setWork i .release, none)))) ∧
  (∀ (p : Part) (i : StationId) (t : Step), Kind.ofCode t.kind = some .contact →
    let x := p.station i
    (x.fx.state ≠ some .clamped → p.startStep i t = (p, some (.error .notClamped))) ∧
    (x.fx.state = some .clamped → x.ps.state ≠ .off → p.startStep i t = (p, some (.error .supplyOn))) ∧
    ∀ code : BitVec 6, x.fx.state = some .clamped → x.ps.state = .off → x.fx.captured = some code →
      let pins := p.contactPins code.toNat
      (pins = 0 ∨ 32 < pins → p.startStep i t = (p, some (.error .badParam))) ∧
      (1 ≤ pins → pins ≤ 32 →
        (p.calibration i 8 = none → p.startStep i t = (p, some (.error .badParam))) ∧
        ∀ c, p.calibration i 8 = some c → p.startStep i t =
          (((({ p with mem :=
                p.mem.writeBytes (Config.contactResult i 0) (List.replicate 128 0xFF) }).setWork i
            (.contact { pins := pins, threshold := p.contactThreshold code.toNat, cal := c, pin := 0
                        greatest := 0, greatestAt := 0, firstAbove := none, saturated := false })).setFx i
            fun f => { f with source := true, matrix := some 0 }).setConv fun k =>
              k.place i { channel := none, samples := 4, hold := c.hold, done := 0, sum := 0
                          requester := .fixture }, none))) ∧
  (∀ (p : Part) (i : StationId) (t : Step), Kind.ofCode t.kind = some .measure →
    (p.measureParams i t.params = none → p.startStep i t = (p, some (.error .badParam))) ∧
    ∀ m, p.measureParams i t.params = some m →
      let h := (p.station i).aq.head
      let start := fun pace : Nat => ({ params := m, attempts := 0, hits := 0, last := none, lastMiss := none
                                        refSuspect := false, saturated := false, traceFull := false
                                        gathering := .none, nextStart := p.rackTime + BitVec.ofNat 32 pace
                                        expired := false } : MeasureWork)
      let lampPasses := ∀ r c item, m.source = .lamp r c item →
        h.pending = false ∧ h.present = true ∧ r < h.rows ∧ c < h.columns
      (∀ r c item, m.source = .lamp r c item →
        (h.pending = true → p.startStep i t = (p.setWork i (.measureHeld m), none)) ∧
        (h.pending = false → h.present = false → p.startStep i t = (p, some (.error .noHead))) ∧
        (h.pending = false → h.present = true → h.rows ≤ r ∨ h.columns ≤ c →
          p.startStep i t = (p, some (.error .badParam)))) ∧
      (lampPasses → ∀ c : Int, p.instantCount i m.source = some c → p.startStep i t =
        p.settleLoop i (start (if m.interval = 0 then 1 else m.interval)) (hasFlag t.flags flagTrace)
          (evaluate m.cal m.window (p.station i).st c)) ∧
      (∀ ch k, m.source = .analog ch k → p.startStep i t =
        ((p.setWork i (.measure { start m.interval with gathering := .conversion })).setConv fun q =>
          q.place i { channel := some ch, samples := 2 ^ k, hold := m.cal.hold, done := 0, sum := 0
                      requester := .walker }, none)) ∧
      (∀ n k g, m.source = .freq n k g ∨ m.source = .duty n k g → p.startStep i t =
        ((p.setWork i (.measure { start m.interval with gathering := .meter })).setAq i fun a =>
          let armed := fun n : Meter =>
            { n with state := .armed, shown := .armed, input := k, gate := g, periods := 0, highTicks := 0
                     armedAt := p.rackTime, first := 0, mark := 0 }
          { a with meters := put a.meters n (armed a.meters[n]) }, none)) ∧
      ∀ k n, m.source = .edges k n → p.startStep i t =
        ((p.setWork i (.measure { start m.interval with gathering := .window })).setAq i fun a =>
          { a with window := some { input := k, start := p.rackTime, length := n, count := 0 } }, none)) ∧
  (∀ (p : Part) (i : StationId) (q : BitVec 256) (m : MeasureParams), p.measureParams i q = some m ↔
    sourceParams q = some m.source ∧
    (match m.source with
      | .analog ch _ => p.calibration i ch.val
      | _ => ownScale q (field q 7 1)) = some m.cal ∧
    windowParams q = some m.window ∧ m.hits = field q 35 1 ∧ 1 ≤ m.hits ∧ m.hits ≤ 15 ∧
    m.settle = field q 32 3 ∧ m.settle ≤ 600000 ∧ m.interval = field q 10 2 ∧ m.interval ≤ 1000) ∧
  (∀ (q : BitVec 256) (source : Source), sourceParams q = some source ↔
    (let code := field q 4 1
     let a := field q 5 1
     let b := field q 6 1
     match source with
     | .analog ch k => code = 0 ∧ a = ch.val ∧ b = k ∧ k ≤ 6
     | .supplyI => code = 1
     | .supplyV => code = 2
     | .freq n k g => code = 3 ∧ a = n.val ∧ b = k.val ∧ field q 8 2 = g ∧ 10 ≤ g ∧ g ≤ 2000
     | .duty n k g => code = 4 ∧ a = n.val ∧ b = k.val ∧ field q 8 2 = g ∧ 10 ≤ g ∧ g ≤ 2000
     | .edges k n => code = 5 ∧ b = k.val ∧ field q 8 2 = n ∧ 1 ≤ n ∧ n ≤ 60000
     | .level k => code = 6 ∧ b = k.val
     | .lamp r c item => code = 7 ∧ r = a / 8 ∧ c = a % 8 ∧
        b = match item with | .intensity => 0 | .state => 1 | .blink => 2)) ∧
  (∀ (p : Part) (i : StationId) (t : Step), Kind.ofCode t.kind = some .listen →
    (listenParams t.params = none → p.startStep i t = (p, some (.error .badParam))) ∧
    ∀ m, listenParams t.params = some m →
      let l := (p.station i).lc
      let e := l.schedule.elim (p.readEntry i m.entry) fun table => table[m.entry]
      let span := m.field.offset + if m.field.wide = true then 2 else 1
      (e.direction ≠ 1 ∨ e.length < span → p.startStep i t = (p, some (.error .badParam))) ∧
      (e.direction = 1 → span ≤ e.length → p.startStep i t =
        (p.setWork i (.listen
          { params := m, sequence := l.reception[m.entry].sequence, attempts := 0, hits := 0, last := none
            lastMiss := none, noise := false }), none))) ∧
  (∀ (q : BitVec 256) (m : ListenParams), listenParams q = some m ↔
    m.entry.val = field q 4 1 ∧ m.field.offset = field q 5 1 ∧ m.field.offset ≤ 7 ∧
    field q 6 1 = (if m.field.wide = true then 2 else 1) ∧ field q 7 1 ≤ 1 ∧
    m.field.signed = decide (field q 7 1 = 1) ∧ m.field.highFirst = decide (field q 8 1 = 1) ∧
    (m.field.wide = true → field q 8 1 ≤ 1) ∧
    ownScale q (field q 9 1) = some m.cal ∧ windowParams q = some m.window ∧
    m.hits = field q 35 1 ∧ 1 ≤ m.hits ∧ m.hits ≤ 15 ∧
    m.timeout = field q 10 2 ∧ 1 ≤ m.timeout ∧ m.timeout ≤ 60000) ∧
  (∀ (p : Part) (i : StationId) (t : Step), Kind.ofCode t.kind = some .prompt →
    let slot := field t.params 4 1
    let mode := field t.params 5 1
    let cls := field t.params 6 1
    let k := field t.params 7 1
    let timeout := field t.params 8 2
    let u := (p.station i).walker.run
    (63 < slot ∨ 1 < mode ∨ 1 < cls ∨ 600 < timeout ∨ 4 < k →
      p.startStep i t = (p, some (.error .badParam))) ∧
    (slot ≤ 63 → mode ≤ 1 → cls ≤ 1 → timeout ≤ 600 → k ≤ 4 → p.startStep i t =
      (((((p.setWork i .prompt).placeEntry
        { station := i, notice := none, urgent := decide (cls = 1), acknowledge := decide (mode = 1)
          text := p.mem.bytes (Config.textSlot slot) 48, slot := slot, cell := t.cell
          runNumber := if u.state = .opened then u.number else 0
          remaining := if timeout = 0 then none else some (1000 * timeout), shown := 0
          repeatOffset := k, repeatCount := 0, rerun := false }).setCellState i t.cell
        cellWaiting).setStationState i .waiting), none)))

/-- R24: a walker about to examine a cell with an OPEN run of 65,535 taken steps takes nothing: the station
enters STOPPED with hold reason RUN_OPEN and ATTN.STOP, cell and position as they are, the run OPEN; a CLEAR
closes it by R43's state and the station examines the same cell with no run open. -/
def Obligations.RunLengthLimitStopsStation : Prop :=
  (∀ (p : Part) (i : StationId), (p.station i).walker.run.state = .opened →
    (p.station i).walker.run.taken = 65535 →
    (p.chain i).mem = p.mem ∧ p.RackStands (p.chain i) ∧ (p.chain i).panel = p.panel ∧
    (p.chain i).conv = p.conv ∧ p.OthersStand (p.chain i) i ∧
    (p.chain i).attn = p.attn ||| (1#22 <<< (5 * i.val + 2)) ∧
    (p.chain i).station i =
      { p.station i with
        walker := { (p.station i).walker with state := .stopped, holdReason := .runOpen } }) ∧
  (∀ (p : Part) (i : StationId), (p.station i).walker.state = .stopped →
    (p.station i).walker.run.state = .opened → ∃ q : Part,
      p.clear i = q.chain i ∧ (q.station i).walker.position = (p.station i).walker.position ∧
      (q.station i).walker.state = .idle ∧ q.mem = p.mem ∧
      (q.station i).walker.run.taken = (p.station i).walker.run.taken ∧
      (q.station i).walker.run.endTime = p.rackTime ∧ q.attn = p.attn ||| (1#22 <<< (5 * i.val + 1)) ∧
      (q.station i).walker.run.state =
        (if (p.station i).walker.run.failed.toNat + (p.station i).walker.run.errored.toNat > 0 then .failed
         else .aborted))

/-- R28 steps 1, 2 and 5, R27, R30: a completion writes the cell's results and then DONE, changes no other byte,
moves the walker's record (R29) and the last value of a judging kind, and raises ATTN.CELL under NOTIFY. That the
attempts field holds the low 16 bits of a count above 65,535 is the model's choice (log 36). -/
def Obligations.CompletionWritesResults : Prop :=
  ∀ (p : Part) (i : StationId) (t : Step) (r : Result), p.mem.wf = true →
    let q := p.completeMain i t r
    q.mem.read (Config.cell i t.cell) = cellDone ∧
    q.mem.HoldsResult i t.cell r (p.since t.takeTime) ∧
    (∀ a, ¬InResult i t.cell a → q.mem.read a = p.mem.read a) ∧
    q = { p with mem := q.mem, stations := q.stations, touched := q.touched
                 attn := if hasFlag t.flags flagNotify then p.attn ||| (1#22 <<< (5 * i.val)) else p.attn } ∧
    p.OthersStand q i ∧
    q.station i = { p.station i with walker := (p.station i).walker.afterCompletion t r } ∧
    (q.station i).walker.step = none ∧ (q.station i).walker.current = none ∧
    (if (Kind.ofCode t.kind = some .measure ∨ Kind.ofCode t.kind = some .listen ∨
          Kind.ofCode t.kind = some .contact) ∧ (r.verdict = .pass ∨ r.verdict = .fail) then
      (q.station i).walker.lastValue = r.value ∧ (q.station i).walker.lastUnit = r.unit
     else
      (q.station i).walker.lastValue = (p.station i).walker.lastValue ∧
      (q.station i).walker.lastUnit = (p.station i).walker.lastUnit)

/-- R29: a completion within an open run moves exactly the counter of its verdict; the first FAIL or ERROR of
the run also sets its first failing cell, reason and sequence, later ones leave them; an abandonment moves
abandoned alone; outside a run, and for a re-run, no counter moves; with the take these moves keep R40's
identity. -/
def Obligations.RunCountersMoveOnce : Prop :=
  (∀ (w : Walker) (t : Step) (r : Result), w.run.state = .opened → t.counted = true →
    let first := fun u : RunRecord =>
      if w.run.firstCell = 255 then
        { u with firstCell := n8 t.cell.val, firstReason := r.reason.code, firstSeq := w.run.taken }
      else u
    (w.afterCompletion t r).run =
      match r.verdict with
      | .none => { w.run with unjudged := w.run.unjudged + 1 }
      | .pass => { w.run with passed := w.run.passed + 1 }
      | .fail => first { w.run with failed := w.run.failed + 1 }
      | .error => first { w.run with errored := w.run.errored + 1 }) ∧
  (∀ (w : Walker) (t : Step), w.run.state = .opened → t.counted = true →
    (w.afterAbandonment t).run = { w.run with abandoned := w.run.abandoned + 1 }) ∧
  (∀ (w : Walker) (t : Step) (r : Result), ¬(w.run.state = .opened ∧ t.counted = true) →
    (w.afterCompletion t r).run = w.run ∧ (w.afterAbandonment t).run = w.run) ∧
  (∀ (p : Part) (i j : StationId) (t : Step) (r : Result),
    ((p.rerunEnd i t r).station j).walker.run = (p.station j).walker.run) ∧
  (∀ (w : Walker) (t : Step) (r : Result), w.run.state = .opened → w.step = some t → w.agrees = true →
    (w.afterCompletion t r).agrees = true ∧ (w.afterAbandonment t).agrees = true) ∧
  (∀ (p : Part) (i : StationId), (p.station i).walker.run.state = .opened →
    (p.station i).walker.run.taken ≠ 65535 →
    (p.station i).walker.step = none → (p.station i).walker.agrees = true →
    ((p.takeStep i).1.station i).walker.agrees = true)

/-- R31: after a completion an ERROR, a FAIL with STOPFAIL and a FAIL OPERATOR_STOP stop the station with the
reason as hold reason and ATTN.STOP; any other completion examines the cell at the position, and with none READY
there the station is IDLE. -/
def Obligations.CompletionChoosesNextState : Prop :=
  ∀ (p : Part) (i : StationId) (t : Step) (r : Result), p.mem.wf = true →
    (p.station i).walker.step = some t →
    let q := p.completeMain i t r
    let stops := r.verdict = .error ∨
      (r.verdict = .fail ∧ (hasFlag t.flags flagStopFail = true ∨ r.reason = .operatorStop))
    (stops → p.completeStep i r =
      { q.setWalker i (fun w => { w with state := .stopped, holdReason := r.reason }) with
        attn := q.attn ||| (1#22 <<< (5 * i.val + 2)) }) ∧
    (¬stops → p.completeStep i r = q.chain i) ∧
    (¬stops → p.RingWaits i →
      p.completeStep i r = q.setWalker i fun w => { w with state := .idle, holdReason := .ok })

/-- R32, R46, R67, R72, R85, R104, R172, R182: an abandonment leaves no step in flight, the cell ABANDONED with verdict
NONE, the cause's reason, the flags gathered so far and the value, auxiliary value and attempts its kind gives (0 where
it gives none), and one more step abandoned in the run if the step is counted there. A re-run abandoned with its
prompt, or by STOP, leaves its own cell so and moves no counter. A SEND START still pending has gathered LIMITED if a
period of its copy was clamped (log 37); the attempts field holds the low 16 bits of a SET's ramp steps (the model's
choice, log 36). The blocks drop what they held for the step and nothing else: of a MEASURE the conversion request, with
the code of its sample in progress, the edge window and the meters (R134, R140, R144); of a CONTACT the request, the
source and the matrix (R72); of a CLAMP the fixture's motion (R58, R60; a disable leaves a CLOSING one, R54); of a SET
the ramp, which stops where it is (R188); and a PROMPT's entry leaves the panel (R182), its place left for the notice at
a fault (R184). -/
def Obligations.AbandonmentWritesCell : Prop :=
  (∀ (p : Part) (i : StationId) (k : Work) (cause : AbandonCause),
    let x := p.station i
    let left := fun (flags : BitVec 16) (value aux : Int) (attempts : Nat) =>
      ({ verdict := .none, reason := cause.reason, flags := flags, value := value, aux := aux
         attempts := attempts, unit := 0 } : Result)
    let flag := fun (b : Bool) (f : BitVec 16) => if b = true then f else 0
    (p.dropWork i k cause).2 =
      match k with
      | .none | .wait _ | .release | .endRelease _ _ | .sendStop _ | .sendOnce _ _ | .measureHeld _ =>
        left 0 0 0 0
      | .sendStart _ clamped => left (if clamped = 0 then 0 else resLimited) 0 0 0
      | .clamp limited due => left (flag limited resLimited ||| flag due resServiceDue) 0 0 0
      | .contact w => left (flag w.saturated resSaturated) 0 0 w.pin
      | .power limited => left (flag limited resLimited) x.ps.commanded x.ps.rampDuration 0
      | .set w =>
        left (flag w.limited resLimited)
          (match w.channel with
            | .pg n => (x.st.pg[n].present : Int)
            | .lv n => (x.st.lv[n].present : Int)) w.target w.steps
      | .measure w =>
        left (flag w.refSuspect resRefSuspect ||| flag w.saturated resSaturated |||
          flag w.traceFull resTraceFull) (w.last.elim 0 Attempt.value) (w.last.elim 0 Attempt.judged) w.attempts
      | .listen w =>
        left (flag w.noise resNoise) (w.last.elim 0 Attempt.value) (w.last.elim 0 Attempt.judged) w.attempts
      | .prompt =>
        let e := (p.panel.showing.toList ++ p.panel.queue).find? fun e =>
          decide (e.station = i) && e.notice.isNone
        left 0 0 (e.elim 0 fun e => (e.shown : Int)) (e.elim 0 fun e => e.repeatCount)) ∧
  (∀ (p : Part) (i : StationId) (k : Work) (cause : AbandonCause),
    let x := p.station i
    let q := (p.dropWork i k cause).1
    let withdrawn : Converter :=
      { p.conv with
        queue := put p.conv.queue i none
        sample := p.conv.sample.map fun y => if y.input = .request i then { y with live := false } else y }
    q.station i =
      (match k with
      | .measure _ =>
        { x with aq := { x.aq with
          window := none
          meters := mapEach (fun m : Meter => { m with state := .idle, shown := .idle }) x.aq.meters } }
      | .contact _ => { x with fx := { x.fx with source := false, matrix := none } }
      | .clamp _ _ =>
        { x with fx :=
          if x.fx.state = some .arming then x.fx.rest .opened false
          else if x.fx.state = some .closing ∧ cause ≠ .disabled then
            { x.fx.rest .opening false with travelStart := some p.rackTime }
          else x.fx }
      | .set w =>
        { x with st :=
          match w.channel with
          | .pg n =>
            if x.st.pg[n].ramp = none then x.st
            else { x.st with
              pg := put x.st.pg n { x.st.pg[n] with target := x.st.pg[n].present, ramp := none } }
          | .lv n =>
            if x.st.lv[n].ramp = none then x.st
            else { x.st with
              lv := put x.st.lv n { x.st.lv[n] with target := x.st.lv[n].present, ramp := none } } }
      | .none | .wait _ | .release | .endRelease _ _ | .power _ | .sendStart _ _ | .sendStop _ | .sendOnce _ _
      | .measureHeld _ | .listen _ | .prompt => x) ∧
    q.conv =
      (match k with
      | .measure _ | .contact _ => withdrawn
      | .none | .wait _ | .clamp _ _ | .release | .endRelease _ _ | .power _ | .set _ | .sendStart _ _
      | .sendStop _ | .sendOnce _ _ | .measureHeld _ | .listen _ | .prompt => p.conv) ∧
    p.OthersStand q i ∧
    q = { p with mem := q.mem, panel := q.panel, conv := q.conv, stations := q.stations
                 touched := q.touched } ∧
    (k ≠ .prompt → q.mem = p.mem ∧ q.panel = p.panel) ∧
    (k = .prompt →
      (∀ e, p.panel.showing = some e → e.station = i → e.notice = none →
        ((∃ r, cause = .fault r) → q.panel = { p.panel with showing := none } ∧ q.mem = p.mem) ∧
        ((∀ r, cause ≠ .fault r) → q = p.endShowing)) ∧
      ((∀ e, p.panel.showing = some e → e.station = i → e.notice.isSome = true) →
        q.panel = { p.panel with queue := p.panel.queue.filter fun e => !e.promptOf i })) ∧
    ((k = .prompt → p.PanelLaw) → q.Withdrawn i k)) ∧
  (∀ (p : Part) (i : StationId) (t : Step) (cause : AbandonCause), p.mem.wf = true →
    (p.station i).walker.rerun = some t →
    let q := p.abandonRerun i cause
    q.mem.wf = true ∧ q.cellState i t.cell = cellAbandoned ∧
    q.mem.HoldsResult i t.cell (p.dropWork i t.work cause).2 (p.since t.takeTime) ∧
    (t.work ≠ .prompt → ∀ a, ¬InResult i t.cell a → q.mem.read a = p.mem.read a) ∧
    (let d := (p.dropWork i t.work cause).1
     q.station i = { d.station i with
      walker := { (p.station i).walker with rerun := none, rerunCell := none } } ∧
     q.panel = d.panel ∧ q.conv = d.conv) ∧
    p.OthersStand q i) ∧
  ∀ (p : Part) (i : StationId) (t : Step) (cause : AbandonCause), p.mem.wf = true →
    (p.station i).walker.rerun = none → (p.station i).walker.step = some t →
    let q := p.abandonStep i cause
    q.mem.wf = true ∧ q.cellState i t.cell = cellAbandoned ∧
    q.mem.HoldsResult i t.cell (p.dropWork i t.work cause).2 (p.since t.takeTime) ∧
    (t.work ≠ .prompt → ∀ a, ¬InResult i t.cell a → q.mem.read a = p.mem.read a) ∧
    q.mem.read (Config.cell i t.cell + 36) = Verdict.none.code ∧
    q.mem.read (Config.cell i t.cell + 37) = cause.reason.code ∧
    q.mem.readLE (Config.cell i t.cell + 60) 4 = p.since t.takeTime ∧
    (let d := (p.dropWork i t.work cause).1
     q.station i = { d.station i with walker := (p.station i).walker.afterAbandonment t } ∧
     q.panel = d.panel ∧ q.conv = d.conv) ∧
    (q.station i).walker.step = none ∧ p.OthersStand q i ∧
    ((∃ w, t.work = .measure w) ∨ (∃ w, t.work = .contact w) → q.conv.queue[i] = none)

/-- R33, R34: a write to STNCTL reaches the stations in order, each one's HALT before its CLEAR (R7; the order of
the stations: log 5); an OFF, STOPPED or FAULTED
station takes none; any other has its step, and a re-run beside it, abandoned with HALTED (R32), their blocks holding
nothing for them (R72, R134, R140, R144, R182), and is STOPPED with hold reason HALTED, its ramps stopped where they are, a ramping supply ON at its present output, a CLOSING fixture
OPENING from now, an ARMING one OPEN, any other fixture and its position as they were. -/
def Obligations.HaltStopsStation : Prop :=
  (∀ (s : State) (v : Word), s.part.Runs →
    Answers (.stationHalt v) s fun p =>
      ([0, 1, 2, 3] : List StationId).foldl (fun q i =>
        let q1 := if v.getLsbD i.val then q.halt i else q
        if v.getLsbD (4 + i.val) then q1.clear i else q1) p) ∧
  (∀ (s : State) (i : StationId), s.part.Runs →
    Answers (.stationHalt (1#32 <<< i.val)) s fun p => p.halt i) ∧
  (∀ (s : State) (v : Word), s.part.Runs → (∀ i, (s.part.station i).walker.state = .off) →
    Leaves (.stationHalt v) s s.part) ∧
  ∀ (p : Part) (i : StationId),
    let w := (p.station i).walker
    let q := p.halt i
    (w.state = .off ∨ w.state = .stopped ∨ w.state = .faulted → q = p) ∧
    (w.state = .idle ∨ w.state = .busy ∨ w.state = .waiting →
      (q.station i).walker.state = .stopped ∧ (q.station i).walker.holdReason = .halted ∧
      (q.station i).walker.step = none ∧ (q.station i).walker.rerun = none ∧
      (q.station i).walker.position = w.position ∧ p.OthersStand q i ∧ p.RackStands q ∧ q.attn = p.attn ∧
      (∀ k : Fin 4, (q.station i).st.pg[k].ramp = none ∧ (q.station i).st.lv[k].ramp = none) ∧
      (∀ k : Fin 4, (q.station i).st.pg[k].present = (p.station i).st.pg[k].present ∧
        (q.station i).st.lv[k].present = (p.station i).st.lv[k].present) ∧
      (q.station i).ps =
        (if (p.station i).ps.state = .ramping then
          { (p.station i).ps with state := .on, setpoint := (p.station i).ps.commanded }
         else (p.station i).ps) ∧
      (p.mem.wf = true → ∀ t, w.step = some t ∨ w.rerun = some t → q.CellAbandoned i t.cell .halted) ∧
      (∀ t, w.step = some t ∨ w.rerun = some t → (t.work = .prompt → p.PanelLaw) → q.Withdrawn i t.work) ∧
      (q.station i).fx.levels = (p.station i).fx.levels ∧
      (q.station i).fx.captured = (p.station i).fx.captured ∧
      (if (p.station i).fx.state = some .closing then
        (q.station i).fx.state = some .opening ∧ (q.station i).fx.drive = false ∧
        (q.station i).fx.travelStart = some p.rackTime
       else if (p.station i).fx.state = some .arming then
        (q.station i).fx.state = some .opened ∧ (q.station i).fx.drive = false ∧
        (q.station i).fx.travelStart = none ∧ (q.station i).fx.handTimer = none
       else
        (q.station i).fx.state = (p.station i).fx.state ∧ (q.station i).fx.drive = (p.station i).fx.drive ∧
        (q.station i).fx.travelStart = (p.station i).fx.travelStart) ∧
      (w.step = none → w.rerun = none → q.mem = p.mem ∧ q.panel = p.panel ∧ q.conv = p.conv))

/-- R36, R37, R43: a CLEAR request reaches each station whose CLEAR bit is written (R7), in the order of the
stations (the model's choice, log 5). An OFF, IDLE, BUSY or
WAITING station ignores it, and so does a FAULTED one whose guard is open or whose JAMMED fixture is not open.
Otherwise the supply goes OFF, an OPEN run is closed by its counters with ATTN.RUN, and with no READY cell at the
position the station is IDLE. -/
def Obligations.ClearResumesStation : Prop :=
  (∀ (s : State) (v : Word), s.part.Runs → v.extractLsb' 0 4 = 0 →
    Answers (.stationClear v) s fun p =>
      ([0, 1, 2, 3] : List StationId).foldl (fun q i => if v.getLsbD (4 + i.val) then q.clear i else q) p) ∧
  (∀ (s : State) (i : StationId), s.part.Runs →
    Answers (.stationClear (1#32 <<< (4 + i.val))) s fun p => p.clear i) ∧
  ∀ (p : Part) (i : StationId),
    let x := p.station i
    let q := p.clear i
    (x.walker.state = .off ∨ x.walker.state = .idle ∨ x.walker.state = .busy ∨ x.walker.state = .waiting →
      q = p) ∧
    (x.walker.state = .faulted →
      x.fx.levels.guard = false ∨ (x.fx.state = some .jammed ∧ x.fx.levels.opened = false) → q = p) ∧
    (x.walker.state = .stopped ∨
        (x.walker.state = .faulted ∧ x.fx.levels.guard = true ∧
          ¬(x.fx.state = some .jammed ∧ x.fx.levels.opened = false)) →
      p.cellState i x.walker.position ≠ cellReady →
      (q.station i).walker =
        { x.walker with
          state := .idle, holdReason := .ok
          run :=
            if x.walker.run.state = .opened then
              { x.walker.run with
                state := if 0 < x.walker.run.failed.toNat + x.walker.run.errored.toNat then .failed
                         else .aborted
                endTime := p.rackTime }
            else x.walker.run } ∧
      (q.station i).ps.state = .off ∧
      (x.ps.state ≠ .off →
        (q.station i).ps.commanded = 0 ∧ (q.station i).st = Stimulus.park ∧
        (q.station i).lc.still = true) ∧
      (q.station i).fx = x.fx ∧ p.OthersStand q i ∧ p.RackStands q ∧
      q.attn = (if x.walker.run.state = .opened then p.attn ||| (1#22 <<< (5 * i.val + 1)) else p.attn) ∧
      (x.walker.state = .stopped → q.mem = p.mem ∧ q.panel = p.panel ∧ q.conv = p.conv) ∧
      (x.walker.state = .faulted → ∀ e, q.panel.showing = some e → (p.panel.queue.all fun d =>
        !d.noticeOf i) = true → e.noticeOf i = false))

/-- R38, R184: a fault report to an OFF station is ignored; a FAULTED one raises ATTN.FAULT again and keeps its
hold reason; any other has its step, and a re-run beside it, abandoned (R32: the cell ABANDONED with verdict NONE
and the report's reason, the blocks holding nothing for it) and enters FAULTED with that reason, ATTN.FAULT raised, its run as OPEN as it was and its
notice placed at the panel. -/
def Obligations.FaultReportFaultsStation : Prop :=
  ∀ (p : Part) (i : StationId) (r : FaultReason),
    let w := (p.station i).walker
    let q := p.faultReport i r
    (w.state = .off → q = p) ∧
    (w.state = .faulted → q = { p with attn := p.attn ||| (1#22 <<< (5 * i.val + 3)) }) ∧
    (w.state = .idle ∨ w.state = .busy ∨ w.state = .waiting ∨ w.state = .stopped →
      (q.station i).walker.state = .faulted ∧ (q.station i).walker.holdReason = r.reason ∧
      (q.station i).walker.step = none ∧ (q.station i).walker.rerun = none ∧
      (p.mem.wf = true → ∀ t, w.step = some t ∨ w.rerun = some t → q.CellAbandoned i t.cell r.reason) ∧
      (∀ t, w.step = some t ∨ w.rerun = some t → (t.work = .prompt → p.PanelLaw) → q.Withdrawn i t.work) ∧
      (q.station i).walker.run.state = w.run.state ∧ p.OthersStand q i ∧ p.RackStands q ∧
      q.attn = p.attn ||| (1#22 <<< (5 * i.val + 3)) ∧
      (q.panel.showing = some (noticeEntry i r) ∨ noticeEntry i r ∈ q.panel.queue))

/-- R100: a DL SET writes the bits of the lines its mask names and no others, and completes at once with verdict
NONE, reason OK, the line states after it, the mask, and LIMITED clear, whatever its rate, FROM and NOWAIT. An MV SET
likewise writes its message value, and completes at once with that value and auxiliary value 0 (R101). -/
def Obligations.DiscreteLinesAreSet : Prop :=
  (∀ (p : Part) (i : StationId) (t : Step) (mask bits : BitVec 16), Kind.ofCode t.kind = some .set →
    setParams t.params = some (.dl mask bits) → (p.station i).ps.live = true → ∃ lines : BitVec 16,
      p.startStep i t =
        (p.setSt i fun st => { st with dl := lines },
         some { verdict := .none, reason := .ok, flags := 0, value := lines.toNat, aux := mask.toNat
                attempts := 0, unit := 0 }) ∧
      (∀ k < 16, lines.getLsbD k =
        if mask.getLsbD k = true then bits.getLsbD k else (p.station i).st.dl.getLsbD k) ∧
      (mask = 0 → lines = (p.station i).st.dl)) ∧
  ∀ (p : Part) (i : StationId) (t : Step) (k : Fin 8) (v : BitVec 16), Kind.ofCode t.kind = some .set →
    setParams t.params = some (.mv k v) → (p.station i).ps.live = true →
    p.startStep i t =
      (p.setSt i fun st => { st with mv := put st.mv k v },
       some { verdict := .none, reason := .ok, flags := 0, value := v.toInt, aux := 0, attempts := 0, unit := 0 })

/-! ### Steps against rack time (01 R5; 02 R45; 09 R163, R165, R171) -/

/-- R5, R139, R174, R180, R50, R51: a millisecond increments rack time (wrapping), counts the showing prompt (its shown
ms past 4,294,967,295 too: the model's choice, log 43), counts, up to the debounce time, the increments of rack time
since the raw level of each key of an enabled rack came to differ from its debounced level, and those since the raw
level of each fixture input did and since the code bits came to hold a code that is not the mounted one (00 section 6.4;
a difference that began, or began anew, in the ms that ends counts 1; how a tick tells it: log 10). It writes the
records of the inputs that changed at stations that are not OFF (all of the record: log 38) and no other byte, and
changes no block else. -/
def Obligations.RackTimeTicks : Prop :=
  (∀ (s : State) (keys : RawMs 4) (fixtures : Vector FixtureRaw 4), s.part.Runs → s.part.mem.wf = true →
    ∃ q : Part, exec (.rackTimeTick keys fixtures) s = .next { s with part := q } ∧
    q.rackTime = s.part.rackTime + 1 ∧ q.panel.showing = s.part.panel.showing.map PanelEntry.tick ∧
    q.panel.queue = s.part.panel.queue ∧ q.attn = s.part.attn ∧ q.conv = s.part.conv ∧
    q.enabled = s.part.enabled ∧ q.panel.keys = s.part.panel.keys ∧
    (∀ k : Fin 4, q.panel.keyRaw[k] =
      if s.part.enabled = true ∧ keys.differs.getLsbD k.val = true then
        (if keys.anew.getLsbD k.val = true then 1
         else if s.part.panel.keyRaw[k] < s.part.config.panelDebounce then s.part.panel.keyRaw[k] + 1
         else s.part.panel.keyRaw[k])
      else 0) ∧
    (∀ (i : StationId) (k : Fin 8), (s.part.station i).walker.state ≠ .off →
      (s.part.station i).aq.inputs[k].changed = true →
      let n := (s.part.station i).aq.inputs[k]
      let x := Config.inputRecord i k
      q.mem.readLE x 2 = n.edges % 65536 ∧ q.mem.readLE (x + 2) 2 = n.rejected % 65536 ∧
      q.mem.readLE (x + 4) 4 = n.lastEdge.toNat ∧ q.mem.read (x + 8) = n8 n.filter ∧
      q.mem.read (x + 9) = n8 n.edgeCode ∧ q.mem.readLE (x + 10) 2 = 0 ∧
      q.mem.readLE (x + 12) 4 = if n.level = true then 1 else 0) ∧
    (∀ a,
      (∀ (i : StationId) (k : Fin 8), (s.part.station i).walker.state ≠ .off →
        (s.part.station i).aq.inputs[k].changed = true →
        a < Config.inputRecord i k ∨ Config.inputRecord i k + 16 ≤ a) →
      q.mem.read a = s.part.mem.read a) ∧
    ∀ i : StationId, (q.station i).walker = (s.part.station i).walker ∧
      (let f := (s.part.station i).fx
       (∀ k : FixtureInput, (q.station i).fx.raw[inputNumber k] =
        if fixtures[i].inputs.differs.getLsbD (inputNumber k).val = true then
          (if fixtures[i].inputs.anew.getLsbD (inputNumber k).val = true then 1
           else if f.raw[inputNumber k] < s.part.config.fixtureDebounce then f.raw[inputNumber k] + 1
           else f.raw[inputNumber k])
        else 0) ∧
       (q.station i).fx = { f with raw := (q.station i).fx.raw, codeRaw := (q.station i).fx.codeRaw
                                   codeCount := (q.station i).fx.codeCount } ∧
       (fixtures[i].code = none → (q.station i).fx.codeRaw = f.codeRaw ∧ (q.station i).fx.codeCount =
        if f.codeRaw = f.code then 0
        else if f.codeCount < s.part.config.fixtureDebounce then f.codeCount + 1
        else f.codeCount) ∧
       ∀ c, fixtures[i].code = some c → (q.station i).fx.codeRaw = c ∧ (q.station i).fx.codeCount =
        if c = f.code then 0 else 1) ∧
      (q.station i).ps = (s.part.station i).ps ∧ (q.station i).st = (s.part.station i).st ∧
      (q.station i).lc = (s.part.station i).lc ∧
      (q.station i).aq.meters = (s.part.station i).aq.meters ∧
      (q.station i).aq.head = (s.part.station i).aq.head ∧
      (q.station i).aq.window = (s.part.station i).aq.window ∧
      ∀ k : Fin 8, (q.station i).aq.inputs[k] =
        if (s.part.station i).walker.state = .off then (s.part.station i).aq.inputs[k]
        else { (s.part.station i).aq.inputs[k] with changed := false }) ∧
  (∀ e : PanelEntry, e.notice = none →
    e.tick.shown = e.shown + 1 ∧
    (e.rerun = false → e.tick.remaining = e.remaining.map (· - 1)) ∧
    (e.rerun = true → e.tick.remaining = e.remaining)) ∧
  (∀ (s : State) (keys : RawMs 4) (fixtures : Vector FixtureRaw 4), s.part.Runs →
    s.part.rackTime = 0xFFFFFFFF → ∀ q, exec (.rackTimeTick keys fixtures) s = .next q → q.part.rackTime = 0)

/-- R45, R165, R171, R46: a WAIT completes when its duration has passed, as a step and as a re-run; a settle timeout
fails a MEASURE with no attempt in flight and lets one in flight be the last; a LISTEN's timeout fails it, its flags
NOISE alone and never SATURATED (the model's choice, log 18). -/
def Obligations.StepTimersExpire : Prop :=
  (∀ (s : State) (i : StationId) (t : Step) (d : Nat), s.part.Runs → s.part.Works i t (.wait d) →
    d ≤ s.part.since t.takeTime →
    Answers (.waitExpiry i) s fun p =>
      p.completeStep i { verdict := .none, reason := .ok, flags := 0, value := d, aux := 0, attempts := 0
                         unit := 0 }) ∧
  (∀ (s : State) (i : StationId) (t : Step) (d : Nat), s.part.Runs →
    (s.part.station i).walker.rerun = some t → t.work = .wait d → d ≤ s.part.since t.takeTime →
    Answers (.waitExpiry i) s fun p =>
      p.rerunEnd i t { verdict := .none, reason := .ok, flags := 0, value := d, aux := 0, attempts := 0
                       unit := 0 }) ∧
  (∀ (s : State) (i : StationId) (t : Step) (w : MeasureWork), s.part.Runs →
    s.part.Works i t (.measure w) → w.params.settle ≠ 0 → w.expired = false → w.gathering = .none →
    w.params.settle ≤ s.part.since t.takeTime →
    Answers (.settleTimeout i) s fun p =>
      p.completeStep i
        { verdict := .fail
          reason := match w.lastMiss with
            | some (.attempt c) => c.reason
            | some (.frame _) => .lineError
            | none => .timeout
          flags := w.flags, value := w.last.elim 0 Attempt.value, aux := w.last.elim 0 Attempt.judged
          attempts := w.attempts, unit := w.params.cal.unit }) ∧
  (∀ (s : State) (i : StationId) (t : Step) (w : MeasureWork), s.part.Runs →
    s.part.Works i t (.measure w) → w.params.settle ≠ 0 → w.expired = false → w.gathering ≠ .none →
    w.params.settle ≤ s.part.since t.takeTime →
    Answers (.settleTimeout i) s fun p => p.setWork i (.measure { w with expired := true })) ∧
  (∀ (s : State) (i : StationId) (t : Step) (w : ListenWork), s.part.Runs →
    s.part.Works i t (.listen w) → w.params.timeout ≤ s.part.since t.takeTime →
    Answers (.listenTimeout i) s fun p =>
      p.completeStep i
        { verdict := .fail
          reason := match w.lastMiss with
            | some (.attempt c) => c.reason
            | some (.frame .noResponse) => .noResponse
            | some (.frame _) => .lineError
            | none => if w.attempts = 0 then .noResponse else .timeout
          flags := if w.noise then resNoise else 0
          value := w.last.elim 0 Attempt.value, aux := w.last.elim 0 Attempt.judged
          attempts := w.attempts, unit := w.params.cal.unit })

/-- R162, R163, R140, R142: when its start has come, an attempt of a source read at the start is evaluated at once
against the window; one of an ANALOG source places its conversion request of 2^k samples, one of FREQ or DUTY
arms its meter, one of EDGES opens its window; next start is one interval on. -/
def Obligations.AttemptsStartWhenDue : Prop :=
  (∀ (s : State) (i : StationId) (t : Step) (w : MeasureWork) (c : Int), s.part.Runs →
    s.part.Works i t (.measure w) → w.gathering = .none → w.expired = false →
    s.part.reached w.nextStart = true → s.part.instantCount i w.params.source = some c →
    Answers (.attemptStart i) s fun p =>
      Part.conclude i
        (p.settleLoop i { w with nextStart := p.rackTime + BitVec.ofNat 32 w.params.pace } t.traced
          (evaluate w.params.cal w.params.window (p.station i).st c))) ∧
  (∀ (s : State) (i : StationId) (t : Step) (w : MeasureWork) (ch : Fin 8) (k : Nat), s.part.Runs →
    s.part.Works i t (.measure w) → w.gathering = .none → w.expired = false →
    s.part.reached w.nextStart = true → w.params.source = .analog ch k →
    Answers (.attemptStart i) s fun p =>
      (p.setWork i (.measure
        { w with nextStart := p.rackTime + BitVec.ofNat 32 w.params.interval
                 gathering := .conversion })).setConv fun q =>
        q.place i { channel := some ch, samples := 2 ^ k, hold := w.params.cal.hold, done := 0, sum := 0
                    requester := .walker }) ∧
  (∀ (s : State) (i : StationId) (t : Step) (w : MeasureWork) (m : Fin 2) (k : Fin 8) (g : Nat), s.part.Runs →
    s.part.Works i t (.measure w) → w.gathering = .none → w.expired = false →
    s.part.reached w.nextStart = true → w.params.source = .freq m k g ∨ w.params.source = .duty m k g →
    Answers (.attemptStart i) s fun p =>
      (p.setWork i (.measure
        { w with nextStart := p.rackTime + BitVec.ofNat 32 w.params.interval
                 gathering := .meter })).setAq i fun a =>
        let armed := fun n : Meter =>
          { n with state := .armed, shown := .armed, input := k, gate := g, periods := 0, highTicks := 0
                   armedAt := p.rackTime, first := 0, mark := 0 }
        { a with meters := put a.meters m (armed a.meters[m]) }) ∧
  (∀ (s : State) (i : StationId) (t : Step) (w : MeasureWork) (k : Fin 8) (n : Nat), s.part.Runs →
    s.part.Works i t (.measure w) → w.gathering = .none → w.expired = false →
    s.part.reached w.nextStart = true → w.params.source = .edges k n →
    Answers (.attemptStart i) s fun p =>
      (p.setWork i (.measure
        { w with nextStart := p.rackTime + BitVec.ofNat 32 w.params.interval
                 gathering := .window })).setAq i fun a =>
        { a with window := some { input := k, start := p.rackTime, length := n, count := 0 } }) ∧
  (∀ q : MeasureParams, (q.source.instant = true → q.interval = 0 → q.pace = 1) ∧
    (q.source.instant = false ∨ q.interval ≠ 0 → q.pace = q.interval))

/-- R164, R165, R166: an evaluation counts an attempt; IN adds a hit and any other class sets hits to 0 and is the
last miss; the step passes when hits reach H, and fails at the H-th attempt with timeout 0 and after the expiry
otherwise; else the loop goes on. The step in flight, or the re-run, is left with the attempt state so counted: its
attempts, hits, last attempt, last miss and flags, with nothing gathering; nothing else of the part moves. A traced one
appends its value to the trace buffer while there is room, and has the header word of the trace count published in
either case (R167; marks: log 15). -/
def Obligations.EvaluationMovesSettleLoop : Prop :=
  ∀ (p : Part) (i : StationId) (w : MeasureWork) (traced : Bool) (a : Attempt),
    let hits := if a.cls = .inWindow then w.hits + 1 else 0
    let attempts := if w.attempts < 65535 then w.attempts + 1 else w.attempts
    let miss := if a.cls = .inWindow then w.lastMiss else some (.attempt a.cls)
    let flags := flagIf w.refSuspect resRefSuspect ||| flagIf (w.saturated || a.saturated) resSaturated |||
      flagIf (w.traceFull || (traced && decide (128 ≤ (p.station i).walker.run.traceCount.toNat)))
        resTraceFull
    (p.settleLoop i w traced a).2 =
      (if w.params.hits ≤ hits then
        some { verdict := .pass, reason := .ok, flags := flags, value := a.value, aux := a.upper
               attempts := attempts, unit := w.params.cal.unit }
       else if (w.params.settle = 0 ∧ w.params.hits ≤ attempts) ∨ (w.params.settle ≠ 0 ∧ w.expired = true)
       then
        some { verdict := .fail, reason := measureReason miss, flags := flags, value := a.value
               aux := a.judged, attempts := attempts, unit := w.params.cal.unit }
       else none) ∧
    let q := (p.settleLoop i w traced a).1
    let old := (p.station i).walker
    let left := Work.measure
      { w with attempts := attempts, hits := hits, last := some a, lastMiss := miss
               saturated := w.saturated || a.saturated
               traceFull := w.traceFull || (traced && decide (128 ≤ old.run.traceCount.toNat))
               gathering := .none }
    let run := (q.station i).walker.run
    (∀ t, old.rerun = none → old.step = some t →
      q.station i = { p.station i with walker := { old with step := some { t with work := left }
                                                            run := run } }) ∧
    (∀ t, old.rerun = some t →
      q.station i = { p.station i with walker := { old with rerun := some { t with work := left }
                                                            run := run } }) ∧
    p.OthersStand q i ∧ q = { p with mem := q.mem, stations := q.stations, touched := q.touched } ∧
    (traced = false → q.mem = p.mem ∧ run = old.run) ∧
    (traced = true → q.touched[i].getLsbD (0x20 / 4) = true) ∧
    (traced = true → old.run.traceCount.toNat < 128 →
      q.mem = p.mem.writeLE (Config.traceSlot i old.run.traceCount.toNat) 4 (s32Bits a.value) ∧
      run = { old.run with traceCount := old.run.traceCount + 1 }) ∧
    (traced = true → 128 ≤ old.run.traceCount.toNat →
      q.mem = p.mem ∧ run = { old.run with traceFull := 1 })

/-! ### Fixtures (03) -/

/-- R50, R51, R52: a debounced level changes only when its raw level has differed from it for the debounce time, and
the mounted code only when the raw code has held one other combination for that time (in increments of rack time, of
which the one after the change is the first: 00 section 6.4, log 10); before that the command changes nothing. A change of the mounted code changes the code alone; a debounced change at an OFF
station, and one for which no rule gives an outcome in the present fixture state, changes that level alone, a reset
lasting or not (log 3). The count that a change takes starts anew; a ms at whose end there is no difference sets an input's
count to 0, a difference that begins or begins anew within a ms counts 1 at its end, and so does a combination of the
code bits that comes within it; while they hold the mounted one the code's count is 0. -/
def Obligations.FixtureChangesAreRecorded : Prop :=
  (∀ (s : State) (i : StationId) (c : BitVec 6),
    (s.part.CodeHeld i c → Answers (.fixtureCodeChange i c) s fun p =>
      p.setFx i fun f => { f with code := c, codeCount := 0 }) ∧
    (¬s.part.CodeHeld i c → Answers (.fixtureCodeChange i c) s fun p => p)) ∧
  (∀ (s : State) (i : StationId) (k : FixtureInput), ¬s.part.InputHeld i k →
    Answers (.fixtureDebounceChange i k) s fun p => p) ∧
  (∀ (f : Fixture) (k : FixtureInput),
    f.takeInput k = { f with levels := (f.takeInput k).levels, raw := (f.takeInput k).raw } ∧
    ∀ j : FixtureInput,
      (f.takeInput k).levels.get j = (if j = k then !f.levels.get j else f.levels.get j) ∧
      (f.takeInput k).raw[inputNumber j] = if j = k then 0 else f.raw[inputNumber j]) ∧
  (∀ (f : Fixture) (limit : Nat) (r : FixtureRaw),
    (∀ k : FixtureInput, r.inputs.differs.getLsbD (inputNumber k).val = false →
      (f.countRaw limit r).raw[inputNumber k] = 0) ∧
    (∀ k : FixtureInput, r.inputs.differs.getLsbD (inputNumber k).val = true →
      r.inputs.anew.getLsbD (inputNumber k).val = true → (f.countRaw limit r).raw[inputNumber k] = 1) ∧
    (∀ k : FixtureInput, r.inputs.differs.getLsbD (inputNumber k).val = true →
      r.inputs.anew.getLsbD (inputNumber k).val = false → f.raw[inputNumber k] < limit →
      (f.countRaw limit r).raw[inputNumber k] = f.raw[inputNumber k] + 1) ∧
    (∀ c, r.code = some c → (f.countRaw limit r).codeRaw = c ∧
      (c = f.code → (f.countRaw limit r).codeCount = 0) ∧
      (c ≠ f.code → (f.countRaw limit r).codeCount = 1)) ∧
    (r.code = none → (f.countRaw limit r).codeRaw = f.codeRaw ∧
      (f.codeRaw = f.code → (f.countRaw limit r).codeCount = 0) ∧
      (f.codeRaw ≠ f.code → f.codeCount < limit → (f.countRaw limit r).codeCount = f.codeCount + 1))) ∧
  ∀ (s : State) (i : StationId) (k : FixtureInput), s.part.InputHeld i k →
    (let x := s.part.station i
     x.walker.state = .off ∨ x.fx.state = none ∨ x.fx.state = some .opened ∨
      ((x.fx.state = some .opening ∨ x.fx.state = some .jammed) ∧ (k ≠ .opened ∨ x.fx.levels.opened = true)) ∨
      (x.fx.state = some .clamped ∧ (k ≠ .guard ∨ x.fx.levels.guard = false) ∧
        (k ≠ .nest ∨ x.fx.levels.nest = false)) ∨
      (x.fx.state = some .closing ∧ (k = .opened ∨ k = .nest ∨ (k = .guard ∧ x.fx.levels.guard = false) ∨
        (k = .closed ∧ x.fx.levels.closed = true) ∨ (k = .startL ∧ x.fx.levels.startL = false) ∨
        (k = .startR ∧ x.fx.levels.startR = false) ∨ ((k = .startL ∨ k = .startR) ∧ x.fx.twoHand = false))) ∨
      (x.fx.state = some .arming ∧ (k = .opened ∨ k = .nest ∨ k = .closed ∨
        (k = .guard ∧ x.fx.levels.guard = false)))) →
    Answers (.fixtureDebounceChange i k) s fun p => p.setFx i fun f => f.takeInput k

/-- R55 to R60, R62, R63, R65, R67: an accepted two-hand start makes an ARMING fixture CLOSING, the cell ACTIVE and
the station BUSY, a second press later than the window locks the pair out, a first press is remembered and the
release of both buttons lifts the lockout; CLOSED makes a CLOSING fixture CLAMPED, counts the cycle of the captured
code, gives SERVICE_DUE of a due count and completes the CLAMP (the open run's service-due flag before the completion
and its chained examination: the model's choice, log 18), or reports NO_PART with an empty nest (the flag then
among those of the abandoned CLAMP); a button released in two-hand closing, or the guard opening, reverses it and
fails the CLAMP; the guard opening at an ARMING fixture opens it and fails the CLAMP with auxiliary value 0 (the
model's choice, log 18); OPENED makes an OPENING fixture OPEN and completes a RELEASE, or the END that releases. A
CLAMP just taken meets R56's checks in their order, and then captures the code, sets the travel timeout in use and
makes the fixture CLOSING, or ARMING with cell and station WAITING (R25, R55, R56). -/
def Obligations.ClampMotionsRun : Prop :=
  (∀ (q : BitVec 256) (hands : Option Nat), clampParams q = some hands ↔
    (field q 4 1 = 0 ∧ hands = none) ∨
    (field q 4 1 = 1 ∧ field q 6 2 ≤ 600 ∧ hands = some (field q 6 2))) ∧
  (∀ (p : Part) (i : StationId) (t : Step), Kind.ofCode t.kind = some .clamp →
    let f := (p.station i).fx
    (clampParams t.params = none → p.startStep i t = (p, some (.error .badParam))) ∧
    ∀ hands, clampParams t.params = some hands →
      (f.state ≠ some .opened → p.startStep i t = (p, some (.error .notClamped))) ∧
      (f.state = some .opened → f.levels.nest = false → p.startStep i t = (p, some (.error .noPart))) ∧
      (f.state = some .opened → f.levels.nest = true → f.code = 63 →
        p.startStep i t = (p, some (.error .noFixture))) ∧
      (f.state = some .opened → f.levels.nest = true → f.code ≠ 63 → f.levels.guard = false →
        p.startStep i t = (p, some (.fail .interlock 0 0 0))) ∧
      (f.state = some .opened → f.levels.nest = true → f.code ≠ 63 → f.levels.guard = true →
        let travel := p.travelTimeout f.code.toNat
        let used := if travel < 100 then 100 else if 5000 < travel then 5000 else travel
        let begun := p.setWork i (.clamp (decide (used ≠ travel)))
        (hands = none → p.startStep i t =
          (begun.setFx i fun g =>
            { g with captured := some g.code, travelTimeout := used, state := some .closing, drive := true
                     travelStart := some p.rackTime, handTimer := none, twoHand := false
                     lockedOut := false, firstPress := none }, none)) ∧
        ∀ seconds, hands = some seconds → p.startStep i t =
          (((begun.setFx i fun g =>
            { g with captured := some g.code, travelTimeout := used, state := some .arming, drive := false
                     travelStart := none
                     handTimer := if seconds = 0 then none else some (p.rackTime, 1000 * seconds)
                     twoHand := false, lockedOut := g.levels.startL || g.levels.startR
                     firstPress := none }).setCellState i t.cell cellWaiting).setStationState i .waiting,
           none))) ∧
  (∀ (s : State) (i : StationId) (t : Step) (limited : Bool) (code : BitVec 6) (start : Time),
    s.part.Runs → s.part.mem.wf = true → s.part.Works i t (.clamp limited) →
    s.part.InputHeld i .closed →
    (let x := s.part.station i
     x.walker.state ≠ .off ∧ x.fx.state = some .closing ∧ x.fx.levels.closed = false ∧
      x.fx.levels.nest = true ∧ x.fx.captured = some code ∧ x.fx.travelStart = some start) →
    Answers (.fixtureDebounceChange i .closed) s fun p =>
      let count := if p.cycleCount code.toNat < 4294967295 then p.cycleCount code.toNat + 1
                   else p.cycleCount code.toNat
      let due := decide (p.serviceLimit code.toNat ≠ 0 ∧ p.serviceLimit code.toNat ≤ count)
      let p1 := (p.setFx i fun f =>
        (f.takeInput .closed).rest .clamped true).poke32
          (Config.fixtureRecord code.toNat) count
      let p2 :=
        if due = true ∧ (p.station i).walker.run.state = .opened then
          p1.setRun i fun u => { u with serviceDue := 1 }
        else p1
      p2.completeStep i
        { verdict := .none, reason := .ok
          flags := (if limited then resLimited else 0) ||| (if due then resServiceDue else 0)
          value := p.since start, aux := code.toNat, attempts := 0, unit := 0 }) ∧
  (∀ (s : State) (i : StationId) (t : Step) (limited : Bool) (code : BitVec 6) (start : Time)
    (k : FixtureInput) (r : Reason),
    s.part.Runs → s.part.Works i t (.clamp limited) →
    s.part.InputHeld i k →
    (let x := s.part.station i
     x.walker.state ≠ .off ∧ x.fx.state = some .closing ∧ x.fx.captured = some code ∧
      x.fx.travelStart = some start ∧
      (r = .interlock ∧ k = .guard ∧ x.fx.levels.guard = true ∨
       r = .operatorRelease ∧ x.fx.twoHand = true ∧
        (k = .startL ∧ x.fx.levels.startL = true ∨ k = .startR ∧ x.fx.levels.startR = true))) →
    Answers (.fixtureDebounceChange i k) s fun p =>
      (p.setFx i fun f =>
        (f.takeInput k).toOpening p.rackTime).completeStep i
        { verdict := .fail, reason := r, flags := if limited then resLimited else 0
          value := p.since start, aux := code.toNat, attempts := 0, unit := 0 }) ∧
  (∀ (s : State) (i : StationId) (code : BitVec 6),
    s.part.Runs → s.part.mem.wf = true →
    s.part.InputHeld i .closed →
    (let x := s.part.station i
     x.walker.state ≠ .off ∧ x.fx.state = some .closing ∧ x.fx.levels.closed = false ∧
      x.fx.levels.nest = false ∧ x.fx.captured = some code) →
    Answers (.fixtureDebounceChange i .closed) s fun p =>
      let count := if p.cycleCount code.toNat < 4294967295 then p.cycleCount code.toNat + 1
                   else p.cycleCount code.toNat
      let due := decide (p.serviceLimit code.toNat ≠ 0 ∧ p.serviceLimit code.toNat ≤ count)
      let p1 := (p.setFx i fun f =>
        (f.takeInput .closed).rest .clamped true).poke32
          (Config.fixtureRecord code.toNat) count
      let p2 :=
        if due = true ∧ (p.station i).walker.run.state = .opened then
          p1.setRun i fun u => { u with serviceDue := 1 }
        else p1
      (p2.setWork i ((p.station i).walker.work.gatherDue due)).faultReport i .noPart) ∧
  (∀ (p : Part) (i : StationId) (limited before due : Bool) (cause : AbandonCause),
    (Work.clamp limited before).gatherDue due = .clamp limited due ∧
    (p.dropWork i (.clamp limited due) cause).2.flags =
      (if limited then resLimited else 0) ||| (if due then resServiceDue else 0)) ∧
  (∀ (s : State) (i : StationId) (t : Step) (limited : Bool),
    s.part.Runs → s.part.Works i t (.clamp limited) →
    s.part.InputHeld i .guard →
    (let x := s.part.station i
     x.walker.state ≠ .off ∧ x.fx.state = some .arming ∧ x.fx.levels.guard = true) →
    Answers (.fixtureDebounceChange i .guard) s fun p =>
      (p.setFx i fun f => (f.takeInput .guard).rest .opened false).completeStep i
        { verdict := .fail, reason := .interlock, flags := if limited then resLimited else 0, value := 0
          aux := 0, attempts := 0, unit := 0 }) ∧
  (∀ (s : State) (i : StationId) (t : Step) (code : BitVec 6),
    s.part.Runs → s.part.Works i t .release →
    s.part.InputHeld i .opened →
    (let x := s.part.station i
     x.walker.state ≠ .off ∧ x.fx.state = some .opening ∧ x.fx.levels.opened = false ∧
      x.fx.captured = some code) →
    Answers (.fixtureDebounceChange i .opened) s fun p =>
      (p.setFx i fun f => (f.takeInput .opened).rest .opened false).completeStep i
        { verdict := .none, reason := .ok, flags := 0, value := p.since t.takeTime, aux := code.toNat
          attempts := 0, unit := 0 }) ∧
  (∀ (s : State) (i : StationId) (t : Step) (taken closing : Nat),
    s.part.Runs → s.part.Works i t (.endRelease taken closing) →
    s.part.InputHeld i .opened →
    (let x := s.part.station i
     x.walker.state ≠ .off ∧ x.fx.state = some .opening ∧ x.fx.levels.opened = false) →
    Answers (.fixtureDebounceChange i .opened) s fun p =>
      (p.setFx i fun f => (f.takeInput .opened).rest .opened false).completeStep i
        { verdict := .none, reason := .ok, flags := 0, value := taken, aux := closing, attempts := 0
          unit := 0 }) ∧
  (∀ (s : State) (i : StationId) (k : FixtureInput), s.part.Runs → k = .startL ∨ k = .startR →
    s.part.InputHeld i k →
    (let x := s.part.station i
     x.walker.state ≠ .off ∧ x.fx.state = some .arming ∧ x.fx.lockedOut = false ∧
      x.fx.levels.startL = false ∧ x.fx.levels.startR = false) →
    Answers (.fixtureDebounceChange i k) s fun p =>
      p.setFx i fun f => { f.takeInput k with firstPress := some p.rackTime }) ∧
  (∀ (s : State) (i : StationId) (k : FixtureInput), s.part.Runs →
    s.part.InputHeld i k →
    (let x := s.part.station i
     x.walker.state ≠ .off ∧ x.fx.state = some .arming ∧
      ((k = .startL ∧ x.fx.levels.startL = true ∧ x.fx.levels.startR = false) ∨
       (k = .startR ∧ x.fx.levels.startR = true ∧ x.fx.levels.startL = false))) →
    Answers (.fixtureDebounceChange i k) s fun p =>
      p.setFx i fun f => { f.takeInput k with lockedOut := false, firstPress := none }) ∧
  (∀ (s : State) (i : StationId), s.part.Runs → s.part.AtRest i →
    s.part.InputHeld i .opened →
    (let x := s.part.station i
     x.walker.state ≠ .off ∧ (x.fx.state = some .opening ∨ x.fx.state = some .jammed) ∧
      x.fx.levels.opened = false) →
    Answers (.fixtureDebounceChange i .opened) s fun p =>
      p.setFx i fun f => (f.takeInput .opened).rest .opened false) ∧
  ∀ (s : State) (i : StationId) (t : Step) (limited : Bool) (first : Time) (k : FixtureInput), s.part.Runs →
    s.part.Works i t (.clamp limited) →
    s.part.InputHeld i k →
    (let x := s.part.station i
     x.walker.state ≠ .off ∧ x.fx.state = some .arming ∧ x.fx.lockedOut = false ∧
      x.fx.firstPress = some first ∧
      ((k = .startR ∧ x.fx.levels.startL = true ∧ x.fx.levels.startR = false) ∨
       (k = .startL ∧ x.fx.levels.startR = true ∧ x.fx.levels.startL = false)) ∧
      x.fx.levels.nest = true) →
    (s.part.since first ≤ s.part.config.twoHandWindow →
      Answers (.fixtureDebounceChange i k) s fun p =>
        ((p.setFx i fun f =>
          (f.takeInput k).toClosing p.rackTime true).setCellState i t.cell
            cellActive).setStationState i .busy) ∧
    (s.part.config.twoHandWindow < s.part.since first →
      Answers (.fixtureDebounceChange i k) s fun p =>
        p.setFx i fun f => { f.takeInput k with lockedOut := true })

/-- R58, R61, R63, R64: the two-hand timeout opens an ARMING fixture and fails its CLAMP with TIMEOUT; a travel
timeout makes a CLOSING or OPENING fixture JAMMED, its drive release, and reports JAMMED; one whose OPENED already
reads true is OPEN after that. -/
def Obligations.FixtureTimersExpire : Prop :=
  (∀ (s : State) (i : StationId) (t : Step) (limited : Bool) (code : BitVec 6) (start : Time) (ms : Nat),
    s.part.Runs → s.part.Works i t (.clamp limited) →
    (let x := s.part.station i
     x.fx.state = some .arming ∧ x.fx.handTimer = some (start, ms) ∧ x.fx.captured = some code) →
    ms ≤ s.part.since start →
    Answers (.twoHandTimeout i) s fun p =>
      (p.setFx i fun f => f.rest .opened false).completeStep i
        { verdict := .fail, reason := .timeout, flags := if limited then resLimited else 0, value := 0
          aux := code.toNat, attempts := 0, unit := 0 }) ∧
  (∀ (s : State) (i : StationId) (start : Time), s.part.Runs →
    (let x := s.part.station i
     (x.fx.state = some .closing ∨ x.fx.state = some .opening) ∧ x.fx.travelStart = some start ∧
      x.fx.travelTimeout ≤ s.part.since start) →
    ((s.part.station i).fx.levels.opened = false →
      Answers (.travelTimeout i) s fun p =>
        (p.setFx i fun f => f.rest .jammed false).faultReport i .jammed) ∧
    ((s.part.station i).fx.levels.opened = true →
      Answers (.travelTimeout i) s fun p =>
        ((p.setFx i fun f => f.rest .jammed false).faultReport i .jammed).setFx i fun f =>
          f.rest .opened false))

/-- R65, R66, R83: the guard opening at a CLAMPED fixture cuts a live supply and reports INTERLOCK, and is recorded
alone at a dead one; the loss of the nest cuts a live supply and reports NO_PART whatever the supply. -/
def Obligations.HeldUnitLosesGuardOrNest : Prop :=
  ∀ (s : State) (i : StationId), s.part.Runs → (s.part.station i).walker.state ≠ .off →
    (s.part.station i).fx.state = some .clamped →
    (s.part.InputHeld i .guard → (s.part.station i).fx.levels.guard = true → (s.part.station i).ps.live = true →
      Answers (.fixtureDebounceChange i .guard) s fun p =>
        ((p.setFx i fun f => f.takeInput .guard).supplyLeave i
          .off).faultReport i .interlock) ∧
    (s.part.InputHeld i .guard → (s.part.station i).fx.levels.guard = true → (s.part.station i).ps.live = false →
      Answers (.fixtureDebounceChange i .guard) s fun p =>
        p.setFx i fun f => f.takeInput .guard) ∧
    (s.part.InputHeld i .nest → (s.part.station i).fx.levels.nest = true → (s.part.station i).ps.live = true →
      Answers (.fixtureDebounceChange i .nest) s fun p =>
        ((p.setFx i fun f => f.takeInput .nest).supplyLeave i
          .off).faultReport i .noPart) ∧
    (s.part.InputHeld i .nest → (s.part.station i).fx.levels.nest = true → (s.part.station i).ps.live = false →
      Answers (.fixtureDebounceChange i .nest) s fun p =>
        (p.setFx i fun f => f.takeInput .nest).faultReport i .noPart)

/-! ### Supply and stimulus (04, 05) -/

/-- R78, R80, R81, R82, R84: a ramp's ms moves the output, and its last makes the supply ON and completes the POWER
ON; a sample enters the history and counts in-limit samples; a trip cuts the supply to TRIPPED with its
propagation and reports OVERCURRENT; the output of a ramp lies between its ends and lands on the setpoint. A sample
that brings the trip about sets the mark tripDue, with which the trip follows as a command of its own (log 20). A
POWER ON just taken meets R75's checks, and then takes its clamped numbers and ramps, from 0 out of OFF, from the
present output in ON, or is ON at once where its ramp lasts 0 ms (R76, R77); a POWER OFF takes the supply OFF with its
propagation and completes at once (R79, R84). -/
def Obligations.SupplyFollowsItsEvents : Prop :=
  (∀ (q : BitVec 256) (m : Option PowerNumbers), powerParams q = some m ↔
    (let held := fun low high v : Nat => if v < low then low else if high < v then high else v
     let v := field q 6 2
     let c := field q 8 2
     let r := field q 10 2
     let d := field q 12 2
     (field q 4 1 = 0 ∧ m = none) ∨
     (field q 4 1 = 1 ∧ m = some
      { setpoint := held 6000 16000 v, limit := held 100 5000 c, rampTime := held 0 1000 r
        tripDelay := held 1 250 d
        limited := decide (v < 6000 ∨ 16000 < v ∨ c < 100 ∨ 5000 < c ∨ 1000 < r ∨ d < 1 ∨ 250 < d) }))) ∧
  (∀ (p : Part) (i : StationId) (t : Step), Kind.ofCode t.kind = some .power →
    (powerParams t.params = none → p.startStep i t = (p, some (.error .badParam))) ∧
    (powerParams t.params = some none →
      ((p.station i).ps.state = .off → p.startStep i t = (p, some (.done 0 0 0))) ∧
      ((p.station i).ps.state ≠ .off → p.startStep i t =
        (p.modify i fun x =>
          { x with ps := { x.ps with state := .off, commanded := 0, history := Supply.noHistory
                                     current := 0, voltage := 0, inLimit := false, tripCount := 0
                                     tripDue := false }
                   st := .park, lc := x.lc.supplyLoss },
         some (.done 0 (p.station i).ps.commanded 0))))) ∧
  (∀ (p : Part) (i : StationId) (t : Step) (n : PowerNumbers), Kind.ofCode t.kind = some .power →
    powerParams t.params = some (some n) →
    let f := (p.station i).fx
    let u := (p.station i).ps
    (6000 ≤ n.setpoint ∧ n.setpoint ≤ 16000 ∧ 100 ≤ n.limit ∧ n.limit ≤ 5000 ∧ n.rampTime ≤ 1000 ∧
      1 ≤ n.tripDelay ∧ n.tripDelay ≤ 250) ∧
    (f.state ≠ some .clamped → p.startStep i t = (p, some (.error .notClamped))) ∧
    (f.state = some .clamped → f.levels.nest = false → p.startStep i t = (p, some (.error .noPart))) ∧
    (f.state = some .clamped → f.levels.nest = true → f.levels.guard = false →
      p.startStep i t = (p, some (.error .interlock))) ∧
    (f.state = some .clamped → f.levels.nest = true → f.levels.guard = true →
      u.state = .off ∨ (u.state = .on ∧ (p.station i).lc.state ≠ .dormant) →
      let v0 := if u.state = .off then 0 else u.commanded
      let way := if v0 ≤ n.setpoint then n.setpoint - v0 else v0 - n.setpoint
      let duration := (2 * (n.rampTime * way) + n.setpoint) / (2 * n.setpoint)
      let loaded := fun (st : SupplyState) (v : Nat) =>
        let q := p.setPs i fun y =>
          { y with setpoint := n.setpoint, limit := n.limit, rampTime := n.rampTime, tripDelay := n.tripDelay
                   rampDuration := duration, rampFrom := v0, rampElapsed := 0, rampStart := p.rackTime
                   state := st, commanded := v }
        if (p.station i).lc.state = .dormant then q.setLc i fun l => { l with state := .quiet } else q
      (u.state = .off → duration = n.rampTime) ∧
      (duration = 0 → p.startStep i t =
        (loaded .on n.setpoint, some (.done (if n.limited then resLimited else 0) n.setpoint 0))) ∧
      (duration ≠ 0 → p.startStep i t = ((loaded .ramping v0).setWork i (.power n.limited), none)))) ∧
  (∀ (s : State) (i : StationId), s.part.Runs →
    (let u := (s.part.station i).ps
     u.state = .ramping ∧ u.rampElapsed + 1 ≤ s.part.since u.rampStart ∧ u.rampElapsed + 1 < u.rampDuration) →
    Answers (.supplyRampStep i) s fun p => p.setPs i fun u =>
      { u with rampElapsed := u.rampElapsed + 1
               commanded := rampOutput u.rampFrom u.setpoint (u.rampElapsed + 1) u.rampDuration }) ∧
  (∀ (s : State) (i : StationId) (t : Step) (limited : Bool), s.part.Runs →
    s.part.Works i t (.power limited) →
    (let u := (s.part.station i).ps
     u.state = .ramping ∧ u.rampElapsed + 1 ≤ s.part.since u.rampStart ∧
      u.rampElapsed + 1 = u.rampDuration) →
    Answers (.supplyRampStep i) s fun p =>
      (p.setPs i fun u =>
        { u with rampElapsed := u.rampDuration, commanded := u.setpoint, state := .on }).completeStep i
        { verdict := .none, reason := .ok, flags := if limited then resLimited else 0
          value := (p.station i).ps.setpoint, aux := (p.station i).ps.rampDuration, attempts := 0
          unit := 0 }) ∧
  (∀ (s : State) (i : StationId) (mA mV : BitVec 16) (held : Bool), s.part.Runs →
    (s.part.station i).ps.live = true →
    Answers (.supplyMonitorSample i mA mV held) s fun p => p.setPs i fun u =>
      let h := ((mA.toNat, mV.toNat) :: u.history).take 8
      let n := if held then (if u.tripCount < 250 then u.tripCount + 1 else u.tripCount) else 0
      { u with history := h, current := meanOfEight (h.map Prod.fst)
               voltage := meanOfEight (h.map Prod.snd), inLimit := held, tripCount := n
               tripDue := held && decide (u.tripDelay ≤ n) }) ∧
  (∀ (s : State) (i : StationId), s.part.Runs → (s.part.station i).ps.live = true →
    (s.part.station i).ps.tripDue = true →
    Answers (.supplyTrip i) s fun p =>
      (p.modify i fun x =>
        { x with ps := { x.ps with state := .tripped, commanded := 0, history := Supply.noHistory
                                   current := 0, voltage := 0, inLimit := false, tripCount := 0
                                   tripDue := false }
                 st := .park, lc := x.lc.supplyLoss }).faultReport i .overcurrent) ∧
  ∀ v0 vs t k : Nat, 0 < t → k ≤ t →
    rampOutput v0 vs 0 t = v0 ∧ rampOutput v0 vs t t = vs ∧
    (v0 ≤ vs → v0 ≤ rampOutput v0 vs k t ∧ rampOutput v0 vs k t ≤ vs) ∧
    (vs ≤ v0 → vs ≤ rampOutput v0 vs k t ∧ rampOutput v0 vs k t ≤ v0)

/-- R90, R91: the counts of a frequency and a duty lie within their ranges; P is 10^10 / f rounded half up where
that lies in range, 500 below it and 40,000,000 above; H is P × duty / 1000 rounded half up and clamped to 1 to P − 1.
A frequency outside the range is replaced, as a target, by the one its clamped count gives. The counts a generator
runs, and those it is to run, lie in these ranges or are 0: every step keeps this law at every generator. -/
def Obligations.PulseCountsAreLawful : Prop :=
  (∀ s t : State, s.part.PulseLaw → step s = .next t → t.part.PulseLaw) ∧
  (∀ f : Nat,
    clampFrequency f =
      if f = 0 then (0, false)
      else if 2 * 10000000000 < 999 * f then (20000000, true)
      else if 80000001 * f ≤ 2 * 10000000000 then (250, true)
      else (f, false)) ∧
  ∀ (f duty : Nat) (idle : Bool), f ≠ 0 → 1 ≤ duty → duty ≤ 999 →
    let c := countsOf f duty idle
    500 ≤ c.period ∧ c.period ≤ 40000000 ∧ 1 ≤ c.high ∧ c.high ≤ c.period - 1 ∧ c.idle = idle ∧
    (∀ n, 500 ≤ n → n ≤ 40000000 → (2 * n - 1) * f ≤ 2 * 10000000000 →
      2 * 10000000000 < (2 * n + 1) * f → c.period = n) ∧
    (2 * 10000000000 < 999 * f → c.period = 500) ∧
    (80000001 * f ≤ 2 * 10000000000 → c.period = 40000000) ∧
    (∀ n, 1 ≤ n → n ≤ c.period - 1 → (2 * n - 1) * 1000 ≤ 2 * (c.period * duty) →
      2 * (c.period * duty) < (2 * n + 1) * 1000 → c.high = n) ∧
    ((2 * c.period - 1) * 1000 ≤ 2 * (c.period * duty) → c.high = c.period - 1) ∧
    (2 * (c.period * duty) < 1000 → c.high = 1)

/-- R92, R93, R96, R97: a ramp step moves the present value by its rate, or lands on the target and ends the ramp, alone
unless the step in flight is a SET that waits for that very channel (a ramp that a NOWAIT left goes on beside any other,
R97, R173); a
change gives a running generator pending counts, none where they are those it runs, and starts a stopped one at
once; a SET waiting for the ramp counts its steps and completes at the arrival, a PG's with the realised frequency and
duty of its target (R94), as a step and as a re-run (R46); a period boundary loads pending counts and otherwise
changes nothing; the output is at the level opposite to idle for the first high count of ticks of a period, then at
idle, and at idle while stopped. A PG or LV SET just taken cancels the old ramp, jumps to FROM's start value, and goes
to its target at once or starts a ramp, for which it waits without NOWAIT (R94, R95, R97, R98). -/
def Obligations.StimulusRampsStep : Prop :=
  (∀ (g : PulseGen) (present duty : Nat) (idle : Bool),
    let c := countsOf present duty idle
    let g' := g.change present duty idle
    g'.present = present ∧ g'.duty = duty ∧ g'.idle = idle ∧ g'.target = g.target ∧ g'.ramp = g.ramp ∧
    g'.limited = g.limited ∧
    (g.running.period = 0 → g'.running = c ∧ g'.pending = none) ∧
    (g.running.period ≠ 0 → g'.running = g.running ∧
      g'.pending = if c = g.running then none else some c)) ∧
  (∀ (g : PulseGen) (tick : Nat),
    (g.running.period = 0 → g.output tick = g.running.idle) ∧
    (g.running.period ≠ 0 → tick < g.running.high → g.output tick = !g.running.idle) ∧
    (g.running.high ≤ tick → g.output tick = g.running.idle)) ∧
  (∀ v target rate : Nat,
    (target - v ≤ rate → v - target ≤ rate → rampTowards v target rate = target) ∧
    (v + rate < target → rampTowards v target rate = v + rate) ∧
    (target + rate < v → rampTowards v target rate = v - rate)) ∧
  (∀ (s : State) (i : StationId) (k : Fin 4) (r : Ramp), s.part.Runs →
    (s.part.station i).walker.work.awaits (.lv k) = false →
    (s.part.station i).st.lv[k].ramp = some r → 10 * (r.steps + 1) ≤ s.part.since r.start →
    Answers (.stimulusRampStep i (.lv k)) s fun p => p.setSt i fun st =>
      let o := st.lv[k]
      let v := rampTowards o.present o.target r.rate
      let after := if v = o.target then none else some { r with steps := r.steps + 1 }
      { st with lv := put st.lv k { o with present := v, ramp := after } }) ∧
  (∀ (s : State) (i : StationId) (k : Fin 4) (r : Ramp), s.part.Runs →
    (s.part.station i).walker.work.awaits (.pg k) = false →
    (s.part.station i).st.pg[k].ramp = some r → 10 * (r.steps + 1) ≤ s.part.since r.start →
    Answers (.stimulusRampStep i (.pg k)) s fun p => p.setSt i fun st =>
      let g := st.pg[k]
      let v := rampTowards g.present g.target r.rate
      let after := if v = g.target then none else some { r with steps := r.steps + 1 }
      { st with pg := put st.pg k { g.change v r.duty r.idle with ramp := after } }) ∧
  (∀ (s : State) (i : StationId) (k : Fin 4) (r : Ramp) (t : Step) (w : SetWork), s.part.Runs →
    s.part.Works i t (.set w) → w.channel = .lv k →
    (s.part.station i).st.lv[k].ramp = some r → 10 * (r.steps + 1) ≤ s.part.since r.start →
    rampTowards (s.part.station i).st.lv[k].present (s.part.station i).st.lv[k].target r.rate =
      (s.part.station i).st.lv[k].target →
    Answers (.stimulusRampStep i (.lv k)) s fun p =>
      ((p.setSt i fun st =>
        { st with lv := put st.lv k { st.lv[k] with present := st.lv[k].target, ramp := none } }).setWork i
          (.set { w with steps := w.steps + 1 })).completeStep i
        { verdict := .none, reason := .ok, flags := if w.limited then resLimited else 0, value := w.target
          aux := 0, attempts := w.steps + 1, unit := 0 }) ∧
  (∀ (s : State) (i : StationId) (k : Fin 4) (r : Ramp) (t : Step) (w : SetWork), s.part.Runs →
    s.part.Works i t (.set w) → w.channel = .pg k →
    (s.part.station i).st.pg[k].ramp = some r → 10 * (r.steps + 1) ≤ s.part.since r.start →
    rampTowards (s.part.station i).st.pg[k].present (s.part.station i).st.pg[k].target r.rate =
      (s.part.station i).st.pg[k].target →
    Answers (.stimulusRampStep i (.pg k)) s fun p =>
      let c := countsOf w.target w.duty false
      let frequency : Nat := if c.period = 0 then 0 else (2 * 10000000000 + c.period) / (2 * c.period)
      let duty : Nat := if c.period = 0 then 0 else (2 * (c.high * 1000) + c.period) / (2 * c.period)
      ((p.setSt i fun st =>
        let g := st.pg[k]
        { st with pg := put st.pg k { g.change g.target r.duty r.idle with ramp := none } }).setWork i
          (.set { w with steps := w.steps + 1 })).completeStep i
        { verdict := .none, reason := .ok, flags := if w.limited then resLimited else 0, value := frequency
          aux := duty, attempts := w.steps + 1, unit := 0 }) ∧
  (∀ (s : State) (i : StationId) (k : Fin 4) (r : Ramp) (w : SetWork), s.part.Runs →
    (s.part.station i).walker.work = .set w →
    (w.channel = .lv k → (s.part.station i).st.lv[k].ramp = some r →
      10 * (r.steps + 1) ≤ s.part.since r.start →
      rampTowards (s.part.station i).st.lv[k].present (s.part.station i).st.lv[k].target r.rate ≠
        (s.part.station i).st.lv[k].target →
      Answers (.stimulusRampStep i (.lv k)) s fun p =>
        (p.setSt i fun st =>
          let o := st.lv[k]
          let v := rampTowards o.present o.target r.rate
          { st with lv := put st.lv k { o with present := v, ramp := some { r with steps := r.steps + 1 } } }).setWork i
          (.set { w with steps := w.steps + 1 })) ∧
    (w.channel = .pg k → (s.part.station i).st.pg[k].ramp = some r →
      10 * (r.steps + 1) ≤ s.part.since r.start →
      rampTowards (s.part.station i).st.pg[k].present (s.part.station i).st.pg[k].target r.rate ≠
        (s.part.station i).st.pg[k].target →
      Answers (.stimulusRampStep i (.pg k)) s fun p =>
        (p.setSt i fun st =>
          let g := st.pg[k]
          let v := rampTowards g.present g.target r.rate
          let after := some { r with steps := r.steps + 1 }
          { st with pg := put st.pg k { g.change v r.duty r.idle with ramp := after } }).setWork i
          (.set { w with steps := w.steps + 1 }))) ∧
  (∀ (s : State) (i : StationId) (k : Fin 4) (r : Ramp) (t : Step) (w : SetWork), s.part.Runs →
    (s.part.station i).walker.rerun = some t → t.work = .set w → w.channel = .lv k →
    (s.part.station i).st.lv[k].ramp = some r → 10 * (r.steps + 1) ≤ s.part.since r.start →
    rampTowards (s.part.station i).st.lv[k].present (s.part.station i).st.lv[k].target r.rate =
      (s.part.station i).st.lv[k].target →
    Answers (.stimulusRampStep i (.lv k)) s fun p =>
      ((p.setSt i fun st =>
        { st with lv := put st.lv k { st.lv[k] with present := st.lv[k].target, ramp := none } }).setWork i
          (.set { w with steps := w.steps + 1 })).rerunEnd i t
        { verdict := .none, reason := .ok, flags := if w.limited then resLimited else 0, value := w.target
          aux := 0, attempts := w.steps + 1, unit := 0 }) ∧
  (∀ (s : State) (i : StationId) (k : Fin 4) (r : Ramp) (t : Step) (w : SetWork), s.part.Runs →
    (s.part.station i).walker.rerun = some t → t.work = .set w → w.channel = .pg k →
    (s.part.station i).st.pg[k].ramp = some r → 10 * (r.steps + 1) ≤ s.part.since r.start →
    rampTowards (s.part.station i).st.pg[k].present (s.part.station i).st.pg[k].target r.rate =
      (s.part.station i).st.pg[k].target →
    Answers (.stimulusRampStep i (.pg k)) s fun p =>
      let c := countsOf w.target w.duty false
      let frequency : Nat := if c.period = 0 then 0 else (2 * 10000000000 + c.period) / (2 * c.period)
      let duty : Nat := if c.period = 0 then 0 else (2 * (c.high * 1000) + c.period) / (2 * c.period)
      ((p.setSt i fun st =>
        let g := st.pg[k]
        { st with pg := put st.pg k { g.change g.target r.duty r.idle with ramp := none } }).setWork i
          (.set { w with steps := w.steps + 1 })).rerunEnd i t
        { verdict := .none, reason := .ok, flags := if w.limited then resLimited else 0, value := frequency
          aux := duty, attempts := w.steps + 1, unit := 0 }) ∧
  (∀ (p : Part) (i : StationId) (t : Step) (k : Fin 4) (mHz duty : Nat) (idle : Bool) (rate : Nat)
    (start : Option Nat), Kind.ofCode t.kind = some .set →
    setParams t.params = some (.pg k mHz duty idle rate start) → (p.station i).ps.live = true →
    let x := p.station i
    let target := (clampFrequency mHz).1
    let d := if duty < 1 then 1 else if 999 < duty then 999 else duty
    let v := start.elim x.st.pg[k].present fun n => (clampFrequency n).1
    let limited := (clampFrequency mHz).2 || decide (d ≠ duty) || start.any fun n => (clampFrequency n).2
    let fresh : PulseGen := { x.st.pg[k] with ramp := none, target := target, limited := limited }
    let begun := if start.isSome then fresh.change v d idle else fresh
    let c := countsOf target d false
    let done := Result.done (if limited then resLimited else 0)
      ((if c.period = 0 then 0 else (2 * 10000000000 + c.period) / (2 * c.period) : Nat) : Int)
      ((if c.period = 0 then 0 else (2 * (c.high * 1000) + c.period) / (2 * c.period) : Nat) : Int)
    let q := (p.startStep i t).1
    q = { p with stations := q.stations, touched := q.touched } ∧ p.OthersStand q i ∧
    (rate = 0 ∨ v = target → (p.startStep i t).2 = some done ∧
      q.station i = { x with st := { x.st with pg := put x.st.pg k (begun.change target d idle) } }) ∧
    (rate ≠ 0 → v ≠ target →
      let r : Ramp := { rate := rate, from_ := v, start := p.rackTime, steps := 0, duty := d, idle := idle }
      let st := { x.st with pg := put x.st.pg k { begun with ramp := some r } }
      (hasFlag t.flags flagNoWait = true → (p.startStep i t).2 = some done ∧ q.station i = { x with st := st }) ∧
      (hasFlag t.flags flagNoWait = false → (p.startStep i t).2 = none ∧
        q.station i = { x with
          st := st
          walker := x.walker.setWork (.set
            { channel := .pg k, target := target, duty := d, steps := 0, limited := limited }) }))) ∧
  (∀ (p : Part) (i : StationId) (t : Step) (k : Fin 4) (ohms rate : Nat) (start : Option Nat),
    Kind.ofCode t.kind = some .set →
    setParams t.params = some (.lv k ohms rate start) → (p.station i).ps.live = true →
    let x := p.station i
    let taken := fun n => if n ≤ 4000 then (n, false) else if n = 65535 then (n, false) else (4000, true)
    let target := (taken ohms).1
    let v := start.elim x.st.lv[k].present fun n => (taken n).1
    let limited := (taken ohms).2 || start.any fun n => (taken n).2
    let fresh : LevelOut := { x.st.lv[k] with ramp := none, target := target, limited := limited }
    let done := Result.done (if limited then resLimited else 0) (target : Int) 0
    let q := (p.startStep i t).1
    q = { p with stations := q.stations, touched := q.touched } ∧ p.OthersStand q i ∧
    (rate = 0 ∨ v = target ∨ target = 65535 ∨ v = 65535 → (p.startStep i t).2 = some done ∧
      q.station i = { x with st := { x.st with lv := put x.st.lv k { fresh with present := target } } }) ∧
    (rate ≠ 0 → v ≠ target → target ≠ 65535 → v ≠ 65535 →
      let r : Ramp := { rate := rate, from_ := v, start := p.rackTime, steps := 0, duty := 0, idle := false }
      let st := { x.st with lv := put x.st.lv k { fresh with present := v, ramp := some r } }
      (hasFlag t.flags flagNoWait = true → (p.startStep i t).2 = some done ∧ q.station i = { x with st := st }) ∧
      (hasFlag t.flags flagNoWait = false → (p.startStep i t).2 = none ∧
        q.station i = { x with
          st := st
          walker := x.walker.setWork (.set
            { channel := .lv k, target := target, duty := 0, steps := 0, limited := limited }) }))) ∧
  (∀ (s : State) (i : StationId) (k : Fin 4) (c : Counts), s.part.Runs →
    (s.part.station i).st.pg[k].running.period ≠ 0 → (s.part.station i).st.pg[k].pending = some c →
    Answers (.pgPeriodBoundary i k) s fun p => p.setSt i fun st =>
      { st with pg := put st.pg k { st.pg[k] with running := c, pending := none } }) ∧
  (∀ (s : State) (i : StationId) (k : Fin 4), s.part.Runs →
    (s.part.station i).st.pg[k].running.period = 0 ∨ (s.part.station i).st.pg[k].pending = none →
    Leaves (.pgPeriodBoundary i k) s s.part)

/-! ### The cluster line (06) -/

/-- R119, R120, R112, R115: an entry whose time has come joins the due list with its next-due time as key, or
counts an overrun if it is there, and its next-due time advances by its period; on a RUNNING line with the wire
free it starts its frame at once; a wire that comes free, and the entry to RUNNING, start the head of the list;
an insertion keeps the list in order of key, equal keys by entry index. A SEND just taken meets R124's checks (which
entries a START checks: log 17), and then loads the schedule at once or at the end of the frame in progress (R125),
clears it and is QUIET at once or at that end (R126), or has an instance of its entry in the due list and waits for its
frame (R127). What a START or STOP does to an earlier one still pending is the model's choice (log 33). A load has every
enabled entry with offset 0 fall due at once (R119). The due list holds an entry at most once and is empty unless the
line is SYNCING or RUNNING: every step keeps this law, with what it rests on (R120, R126). -/
def Obligations.DueEntriesTakeTheWire : Prop :=
  (∀ s t : State, s.part.DueLaw → step s = .next t → t.part.DueLaw) ∧
  (∀ (q : BitVec 256) (a : SendParams), sendParams q = some a ↔
    field q 4 1 = (match a with | .start => 0 | .stop => 1 | .once _ => 2) ∧
    ∀ e, a = .once e → field q 5 1 = e.val) ∧
  (∀ (p : Part) (i : StationId) (t : Step), Kind.ofCode t.kind = some .send →
    (sendParams t.params = none → p.startStep i t = (p, some (.error .badParam))) ∧
    (∀ a, sendParams t.params = some a → (p.station i).ps.live = false →
      p.startStep i t = (p, some (.error .noSupply)))) ∧
  (∀ (p : Part) (i : StationId) (t : Step), Kind.ofCode t.kind = some .send →
    sendParams t.params = some .start → (p.station i).ps.live = true →
    let table := p.readTable i
    let bad := fun e : Fin 16 => table[e].enable ≠ 0 ∧ table[e].valid = false
    let held := fun e : Entry => if e.period < 5 then 5 else if 10000 < e.period then 10000 else e.period
    let enabled := table.toList.countP fun e => decide (e.enable = 1)
    let clamped := table.toList.countP fun e => decide (e.enable = 1) && decide (held e ≠ e.period)
    let copy := mapEach
      (fun e : Entry => if e.enable = 1 then { e with period := held e, offset := e.offset % held e } else e) table
    (∀ e, bad e → (∀ d, d < e → ¬bad d) →
      p.startStep i t = (p, some { Result.error .badParam with aux := e.val })) ∧
    ((∀ e, ¬bad e) → (p.station i).lc.frame = none →
      p.startStep i t =
        (p.loadSchedule i copy, some (.done (if clamped = 0 then 0 else resLimited) enabled clamped))) ∧
    ((∀ e, ¬bad e) → (p.station i).lc.frame ≠ none →
      p.startStep i t =
        ((p.setLc i fun l => { l with pendingReload := some copy, pendingStop := false }).setWork i
          (.sendStart enabled clamped), none))) ∧
  (∀ (p : Part) (i : StationId) (table : Vector Entry 16),
    (∀ e : Fin 16, table[e].enabled = true → table[e].offset < 2 ^ 31) →
    let q := p.loadSchedule i table
    let atOnce := fun e : Entry => e.enabled && decide (e.offset = 0)
    let time := fun ms : Nat => p.rackTime + BitVec.ofNat 32 ms
    (q.station i).lc =
      { (p.station i).lc with
        due := ((List.finRange 16).filter fun e => atOnce table[e]).map fun e => (e, p.rackTime)
        schedule := some table, stuckFlag := false, reception := Vector.replicate 16 .zero
        nextDue := mapEach (fun e : Entry => time (if atOnce e = true then e.period else e.offset)) table
        pendingReload := none, state := .syncing, idleCount := 0 } ∧
    (q.station i).walker = (p.station i).walker ∧ q.mem = p.mem.zero (Config.receptionEntry i 0) 512 ∧
    p.OthersStand q i) ∧
  (∀ (p : Part) (i : StationId) (t : Step), Kind.ofCode t.kind = some .send →
    sendParams t.params = some .stop → (p.station i).ps.live = true →
    let l := (p.station i).lc
    (l.state = .quiet → p.startStep i t = (p, some (.done 0 0 0))) ∧
    (l.state = .syncing ∨ l.state = .running → l.frame = none →
      p.startStep i t =
        (p.setLc i fun m => { m with due := [], schedule := none, state := .quiet, gap := false },
         some (.done 0 l.due.length 0))) ∧
    (l.state = .running → l.frame ≠ none →
      p.startStep i t =
        ((p.setLc i fun m =>
          { m with due := [], schedule := none, pendingStop := true, pendingReload := none }).setWork i
          (.sendStop l.due.length), none))) ∧
  (∀ (p : Part) (i : StationId) (t : Step) (e : Fin 16), Kind.ofCode t.kind = some .send →
    sendParams t.params = some (.once e) → (p.station i).ps.live = true →
    let l := (p.station i).lc
    (l.schedule = none → p.startStep i t = (p, some (.error .lineError))) ∧
    ∀ table, l.schedule = some table →
      (table[e].valid = false → p.startStep i t = (p, some (.error .badParam))) ∧
      (table[e].valid = true → l.state ≠ .running ∨ l.frame ≠ none ∨ l.gap = true →
        (l.isDue e = true → p.startStep i t = ((p.setWork i (.sendOnce e false)).overrun i e, none)) ∧
        (l.isDue e = false → p.startStep i t =
          ((p.setWork i (.sendOnce e false)).setLc i fun m =>
            { m with due := insertDue p.rackTime e p.rackTime m.due }, none))) ∧
      (table[e].valid = true → l.state = .running → l.frame = none → l.gap = false → l.due = [] →
        p.startStep i t =
          ((p.setLc i fun m => { m with frame := some (table[e].frame e (p.station i).st) }).setWork i
            (.sendOnce e true), none))) ∧
  (∀ (s : State) (i : StationId) (e : Fin 16) (table : Vector Entry 16), s.part.Runs →
    (let l := (s.part.station i).lc
     l.schedule = some table ∧ table[e].enabled = true ∧ s.part.reached l.nextDue[e] = true ∧
      (l.state ≠ .running ∨ l.frame ≠ none ∨ l.gap = true)) →
    ((s.part.station i).lc.isDue e = false →
      Answers (.scheduleEntryDue i e) s fun p => p.setLc i fun l =>
        { l with due := insertDue p.rackTime e l.nextDue[e] l.due
                 nextDue := put l.nextDue e (l.nextDue[e] + BitVec.ofNat 32 table[e].period) }) ∧
    ((s.part.station i).lc.isDue e = true →
      Answers (.scheduleEntryDue i e) s fun p => (p.overrun i e).setLc i fun l =>
        { l with nextDue := put l.nextDue e (l.nextDue[e] + BitVec.ofNat 32 table[e].period) })) ∧
  (∀ (s : State) (i : StationId) (e : Fin 16) (table : Vector Entry 16), s.part.Runs →
    (let l := (s.part.station i).lc
     l.schedule = some table ∧ table[e].enabled = true ∧ s.part.reached l.nextDue[e] = true ∧
      l.state = .running ∧ l.frame = none ∧ l.gap = false ∧ l.due = []) →
    Answers (.scheduleEntryDue i e) s fun p =>
      (p.setLc i fun l =>
        { l with nextDue := put l.nextDue e (l.nextDue[e] + BitVec.ofNat 32 table[e].period)
                 frame := some (table[e].frame e (p.station i).st) }).setWalker i (·.onceStarts e)) ∧
  (∀ (s : State) (i : StationId) (d : Fin 16 × Time) (rest : List (Fin 16 × Time))
    (table : Vector Entry 16), s.part.Runs →
    (let l := (s.part.station i).lc
     l.gap = true ∧ l.state = .running ∧ l.frame = none ∧ l.due = d :: rest ∧ l.schedule = some table) →
    Answers (.wireFree i) s fun p =>
      (p.setLc i fun l =>
        { l with gap := false, due := rest
                 frame := some (table[d.1].frame d.1 (p.station i).st) }).setWalker i (·.onceStarts d.1)) ∧
  (∀ (s : State) (i : StationId), s.part.Runs → (s.part.station i).lc.gap = true →
    (s.part.station i).lc.due = [] →
    Answers (.wireFree i) s fun p => p.setLc i fun l => { l with gap := false }) ∧
  (∀ (s : State) (i : StationId), s.part.Runs → (s.part.station i).lc.state = .syncing →
    (s.part.station i).lc.due = [] →
    Answers (.lineSyncComplete i) s fun p => p.setLc i fun l =>
      { l with state := .running, idleCount := 24, gap := false }) ∧
  (∀ (s : State) (i : StationId) (d : Fin 16 × Time) (rest : List (Fin 16 × Time))
    (table : Vector Entry 16), s.part.Runs →
    (let l := (s.part.station i).lc
     l.state = .syncing ∧ l.frame = none ∧ l.due = d :: rest ∧ l.schedule = some table) →
    Answers (.lineSyncComplete i) s fun p =>
      (p.setLc i fun l =>
        { l with state := .running, idleCount := 24, gap := false, due := rest
                 frame := some (table[d.1].frame d.1 (p.station i).st) }).setWalker i (·.onceStarts d.1)) ∧
  ∀ (now : Time) (e : Fin 16) (key : Time) (due : List (Fin 16 × Time)),
    let before := fun a b : Fin 16 × Time =>
      keyAge now b.2 < keyAge now a.2 ∨ (keyAge now a.2 = keyAge now b.2 ∧ a.1 < b.1)
    due.Pairwise before → (∀ d ∈ due, d.1 ≠ e) →
    (insertDue now e key due).Pairwise before ∧ (insertDue now e key due).Perm ((e, key) :: due)

/-- R109: the header character of an address holds it in bits 0 to 6 with even parity, and the characters of a SEND
frame are its header, its data bytes in order and a check character with which they sum to 0 modulo 256; a FETCH frame
sends its header alone; an entry with no binding gives its frame the first bytes of its payload, and one with a binding
those bytes with the bound value in the field: the present value of the channel × ratio / 1024, rounded away on the
magnitude, saturated by source and width, at the binding's position in its byte order (R121). On the wire a frame is a
break of 13 dominant bit times, a recessive delimiter and its characters, of the bit times R109 gives it; a
character is a dominant start bit, its data bits with bit 0 first and a recessive 1, its mark bit and its recessive
stop bits (R107). -/
def Obligations.FramesSumToZero : Prop :=
  (∀ (stopBits : Nat) (c : Byte × Bool),
    let bits := characterLevels stopBits c
    bits.length = characterBits stopBits ∧ bits[0]? = some false ∧
    (∀ k < 8, bits[k + 1]? = some (c.1.getLsbD k)) ∧ bits[9]? = some c.2 ∧
    ∀ k < stopBits, bits[10 + k]? = some true) ∧
  (∀ (f : Frame) (stopBits : Nat),
    f.levels stopBits =
      List.replicate 13 false ++ [true] ++ f.characters.flatMap (characterLevels stopBits) ∧
    (f.levels stopBits).length =
      if f.fetch = true then fetchHeadBits stopBits else sendFrameBits f.bytes.length stopBits) ∧
  (∀ f : Frame, f.fetch = true → f.characters = [(headerByte f.address, true)]) ∧
  (∀ a < 128, (headerByte a).toNat % 128 = a ∧
    ((List.range 8).countP fun k => (headerByte a).getLsbD k) % 2 = 0) ∧
  (∀ (e : Entry) (k : Fin 16) (image : Stimulus), e.direction = 0 → e.bound = 0 →
    (e.frame k image).fetch = false ∧ (e.frame k image).address = e.address ∧
    (e.frame k image).bytes = e.payload.take e.length) ∧
  (∀ (e : Entry) (k : Fin 16) (image : Stimulus) (source : Channel), e.direction = 0 → e.bound = 1 →
    e.source = (match source with | .pg n => n.val | .lv n => 4 + n.val | .mv n => 8 + n.val) →
    e.width = 1 ∨ e.width = 2 → e.position + e.width ≤ e.length → e.length ≤ e.payload.length →
    let present : Int := match source with
      | .pg n => image.pg[n].present
      | .lv n => image.lv[n].present
      | .mv n => image.mv[n].toInt
    let product := present * e.ratio
    let magnitude : Int := (product.natAbs + 512) / 1024
    let range : Int × Int := match source with
      | .mv _ => if e.width = 1 then (-128, 127) else (-32768, 32767)
      | .pg _ | .lv _ => if e.width = 1 then (0, 255) else (0, 65535)
    let v := max range.1 (min range.2 (if product < 0 then -magnitude else magnitude))
    let low := BitVec.ofInt 8 v
    let high := BitVec.ofInt 8 (v / 256)
    let bytes := (e.frame k image).bytes
    (e.frame k image).fetch = false ∧ (e.frame k image).address = e.address ∧ bytes.length = e.length ∧
    (∀ n < e.length, n < e.position ∨ e.position + e.width ≤ n → bytes[n]? = e.payload[n]?) ∧
    (e.width = 1 → bytes[e.position]? = some low) ∧
    (e.width = 2 → e.order = 0 → bytes[e.position]? = some low ∧ bytes[e.position + 1]? = some high) ∧
    (e.width = 2 → e.order = 1 → bytes[e.position]? = some high ∧ bytes[e.position + 1]? = some low)) ∧
  ∀ f : Frame, f.fetch = false →
    byteSum (f.characters.map Prod.fst) = 0 ∧ f.characters.length = f.bytes.length + 2 ∧
    (f.characters.map Prod.fst).tail.dropLast = f.bytes ∧
    (∀ c ∈ f.characters.tail, c.2 = false) ∧ f.characters.head? = some (headerByte f.address, true)

/-- R122, R123: what a frame's end leaves in its reception entry, in its copy and in its 32 bytes of exchange memory,
in the frame counters and on the wire. The counts go on from the line controller's own copy of the entry, over a
host's write (the model's choice, log 14). -/
def Obligations.FrameEndsUpdateRecords : Prop :=
  ∀ (p : Part) (i : StationId) (f : Frame) (r : FrameResult),
    let l := (p.station i).lc
    let q := p.endFrameRecord i f r
    let old := l.reception[f.entry]
    let new : Reception :=
      { data := if f.fetch = true ∧ r = .ok then
            f.received.take f.length ++ List.replicate (8 - f.length) 0 else old.data
        length := if f.fetch = true ∧ r = .ok then f.length else old.length
        lastError := r, noise := f.noise
        time := if r = .ok then p.rackTime else old.time
        good := if r = .ok ∧ old.good < 65535 then old.good + 1 else old.good
        bad := if r ≠ .ok ∧ old.bad < 65535 then old.bad + 1 else old.bad
        overrun := old.overrun
        sequence := if f.fetch then old.sequence + 1 else old.sequence }
    p.OthersStand q i ∧ q = { p with mem := q.mem, stations := q.stations, touched := q.touched } ∧
    (p.mem.wf = true → f.length ≤ 8 → (f.fetch = true → r = .ok → f.length ≤ f.received.length) →
      let x := Config.receptionEntry i f.entry
      (if f.fetch = true ∧ r = .ok then ∀ n < 8, q.mem.read (x + n) = new.data.getD n 0
       else p.mem.SameIn q.mem x 8) ∧
      q.mem.read (x + 8) = n8 new.length ∧ q.mem.read (x + 9) = r.code ∧
      q.mem.read (x + 10) = (if f.noise = true then 1 else 0) ∧ q.mem.read (x + 11) = 0 ∧
      (if r = .ok then q.mem.readLE (x + 12) 4 = p.rackTime.toNat else p.mem.SameIn q.mem (x + 12) 4) ∧
      q.mem.readLE (x + 16) 2 = new.good % 65536 ∧ q.mem.readLE (x + 18) 2 = new.bad % 65536 ∧
      p.mem.SameIn q.mem (x + 20) 4 ∧
      (if f.fetch = true then
        q.mem.readLE (x + 24) 2 = new.sequence.toNat ∧ q.mem.readLE (x + 26) 2 = 0
       else p.mem.SameIn q.mem (x + 24) 4) ∧
      p.mem.SameIn q.mem (x + 28) 4) ∧
    q.station i =
      { p.station i with
        lc := { l with
          reception := put l.reception f.entry new
          framesDone := l.framesDone + 1
          framesBad := if r = .ok then l.framesBad else l.framesBad + 1
          lastEntry := f.entry, lastResult := r, frame := none, gap := true } } ∧
    ∀ a, a < Config.receptionEntry i f.entry ∨ Config.receptionEntry i f.entry + 32 ≤ a →
      f.length ≤ 8 → q.mem.read a = p.mem.read a

/-- R110, R111, R112, R170: a bit error ends the frame being transmitted with BIT_ERROR, the last stop bit of a SEND
frame ends it with OK, and the window's close ends a FETCH frame with the result decided or SHORT; a SEND ONCE
waiting for the frame completes with its result and NOISE, a pending STOP completes, and a pending reload is loaded
and its START completes, whether the frame ends at a last stop bit, a bit error, the window's close or the last
character of an answer; a LISTEN of the entry counts a bad completion as a miss, at the window's close, at a bit error
of its FETCH frame or at a last character with which the answer does not sum to 0, and evaluates a good answer, its
flags NOISE alone and never SATURATED (the model's choice, log 18). A character still incomplete at the window's
close gives its NOISE to a frame with no result decided (R108; log 18). -/
def Obligations.FramesEnd : Prop :=
  (∀ (s : State) (i : StationId) (f : Frame) (noisy : Bool), s.part.Runs →
    (s.part.station i).lc.frame = some f → f.window = false →
    (s.part.station i).lc.pendingStop = false → (s.part.station i).lc.pendingReload = none →
    (s.part.station i).walker.work.hearsFrames = false →
    Answers (.bitError i noisy) s (fun p =>
      p.endFrameRecord i { f with noise := f.noise || noisy } .bitError) ∧
    (f.fetch = false → Answers (.frameEnd i noisy) s fun p =>
      p.endFrameRecord i { f with noise := f.noise || noisy } .ok)) ∧
  (∀ (s : State) (i : StationId) (f : Frame) (noisy : Bool), s.part.Runs →
    (s.part.station i).lc.frame = some f → f.window = true →
    (s.part.station i).lc.pendingStop = false → (s.part.station i).lc.pendingReload = none →
    (s.part.station i).walker.work.hearsFrames = false →
    Answers (.responseWindowClose i noisy) s fun p =>
      p.endFrameRecord i { f with noise := f.noise || (noisy && f.decided.isNone) } (f.decided.getD .short)) ∧
  (∀ (s : State) (i : StationId) (f : Frame) (noisy : Bool) (t : Step), s.part.Runs →
    (s.part.station i).lc.frame = some f → f.window = false → f.fetch = false →
    (s.part.station i).lc.pendingStop = false → (s.part.station i).lc.pendingReload = none →
    s.part.Works i t (.sendOnce f.entry true) →
    Answers (.frameEnd i noisy) s fun p =>
      (p.endFrameRecord i { f with noise := f.noise || noisy } .ok).completeStep i
        { verdict := .none, reason := .ok, flags := 0, value := 0
          aux := if f.noise || noisy then 1 else 0, attempts := 0, unit := 0 }) ∧
  (∀ (s : State) (i : StationId) (f : Frame) (noisy : Bool) (t : Step), s.part.Runs →
    (s.part.station i).lc.frame = some f → f.window = false →
    (s.part.station i).lc.pendingStop = false → (s.part.station i).lc.pendingReload = none →
    s.part.Works i t (.sendOnce f.entry true) →
    Answers (.bitError i noisy) s fun p =>
      (p.endFrameRecord i { f with noise := f.noise || noisy } .bitError).completeStep i
        { verdict := .none, reason := .ok, flags := 0, value := 1
          aux := if f.noise || noisy then 1 else 0, attempts := 0, unit := 0 }) ∧
  (∀ (s : State) (i : StationId) (f : Frame) (noisy : Bool) (t : Step) (table : Vector Entry 16)
    (enabled clamped : Nat), s.part.Runs →
    (s.part.station i).lc.frame = some f → f.window = false → f.fetch = false →
    (s.part.station i).lc.pendingStop = false → (s.part.station i).lc.pendingReload = some table →
    s.part.Works i t (.sendStart enabled clamped) →
    Answers (.frameEnd i noisy) s fun p =>
      ((p.endFrameRecord i { f with noise := f.noise || noisy } .ok).loadSchedule i table).completeStep i
        { verdict := .none, reason := .ok, flags := if clamped = 0 then 0 else resLimited, value := enabled
          aux := clamped, attempts := 0, unit := 0 }) ∧
  (∀ (s : State) (i : StationId) (f : Frame) (noisy : Bool) (t : Step) (table : Vector Entry 16)
    (enabled clamped : Nat), s.part.Runs →
    (s.part.station i).lc.frame = some f → f.window = false →
    (s.part.station i).lc.pendingStop = false → (s.part.station i).lc.pendingReload = some table →
    s.part.Works i t (.sendStart enabled clamped) →
    Answers (.bitError i noisy) s fun p =>
      ((p.endFrameRecord i { f with noise := f.noise || noisy } .bitError).loadSchedule i table).completeStep i
        { verdict := .none, reason := .ok, flags := if clamped = 0 then 0 else resLimited, value := enabled
          aux := clamped, attempts := 0, unit := 0 }) ∧
  (∀ (s : State) (i : StationId) (f g : Frame) (r : FrameResult) (c : Instr) (t : Step), s.part.Runs →
    (s.part.station i).lc.frame = some f → f.window = true →
    ((∃ noisy : Bool, c = .responseWindowClose i noisy ∧
        g = { f with noise := f.noise || (noisy && f.decided.isNone) } ∧ r = f.decided.getD .short) ∨
      ∃ x : CharSamples, c = .responseCharacterReceived i x ∧ f.decided = none ∧
        majority x.start = false ∧ majority x.mark = false ∧ majority x.stop = true ∧
        f.length ≤ f.received.length ∧
        g = { f with noise := f.noise || samplesNoisy x, received := f.received ++ [samplesByte x] } ∧
        r = if headerByte f.address + byteSum (f.received ++ [samplesByte x]) = 0 then .ok else .check) →
    ((s.part.station i).lc.pendingStop = false → (s.part.station i).lc.pendingReload = none →
      s.part.Works i t (.sendOnce f.entry true) →
      Answers c s fun p => (p.endFrameRecord i g r).completeStep i
        { verdict := .none, reason := .ok, flags := 0, value := r.code.toNat
          aux := if g.noise = true then 1 else 0, attempts := 0, unit := 0 }) ∧
    (∀ removed : Nat, (s.part.station i).lc.pendingStop = true → s.part.Works i t (.sendStop removed) →
      Answers c s fun p =>
        ((p.endFrameRecord i g r).setLc i fun l =>
          { l with pendingStop := false, state := .quiet }).completeStep i
          { verdict := .none, reason := .ok, flags := 0, value := removed, aux := 0, attempts := 0
            unit := 0 }) ∧
    ∀ (enabled clamped : Nat) (table : Vector Entry 16), (s.part.station i).lc.pendingStop = false →
      (s.part.station i).lc.pendingReload = some table → s.part.Works i t (.sendStart enabled clamped) →
      Answers c s fun p => ((p.endFrameRecord i g r).loadSchedule i table).completeStep i
        { verdict := .none, reason := .ok, flags := if clamped = 0 then 0 else resLimited, value := enabled
          aux := clamped, attempts := 0, unit := 0 }) ∧
  (∀ (s : State) (i : StationId) (f g : Frame) (r : FrameResult) (c : Instr) (t : Step) (w : ListenWork),
    s.part.Runs → (s.part.station i).lc.frame = some f → f.fetch = true →
    (s.part.station i).lc.pendingStop = false → (s.part.station i).lc.pendingReload = none →
    s.part.Works i t (.listen w) → w.params.entry = f.entry →
    ((∃ noisy : Bool, c = .responseWindowClose i noisy ∧ f.window = true ∧
        g = { f with noise := f.noise || (noisy && f.decided.isNone) } ∧ r = f.decided.getD .short ∧ r ≠ .ok) ∨
      (∃ noisy : Bool, c = .bitError i noisy ∧ f.window = false ∧
        g = { f with noise := f.noise || noisy } ∧ r = .bitError) ∨
      ∃ x : CharSamples, c = .responseCharacterReceived i x ∧ f.window = true ∧ f.decided = none ∧
        majority x.start = false ∧ majority x.mark = false ∧ majority x.stop = true ∧
        f.length ≤ f.received.length ∧ headerByte f.address + byteSum (f.received ++ [samplesByte x]) ≠ 0 ∧
        g = { f with noise := f.noise || samplesNoisy x, received := f.received ++ [samplesByte x] } ∧
        r = .check) →
    Answers c s fun p => (p.endFrameRecord i g r).setWork i (.listen
      { w with attempts := if w.attempts < 65535 then w.attempts + 1 else w.attempts
               hits := 0, lastMiss := some (.frame r), noise := w.noise || g.noise })) ∧
  (∀ (s : State) (i : StationId) (f : Frame) (c : CharSamples) (t : Step) (w : ListenWork), s.part.Runs →
    (s.part.station i).lc.frame = some f → f.window = true → f.fetch = true → f.decided = none →
    (s.part.station i).lc.pendingStop = false → (s.part.station i).lc.pendingReload = none →
    s.part.Works i t (.listen w) → w.params.entry = f.entry →
    majority c.start = false → majority c.mark = false → majority c.stop = true →
    f.length ≤ f.received.length →
    (let got := f.received ++ [samplesByte c]
     headerByte f.address + byteSum got = 0 →
     Answers (.responseCharacterReceived i c) s fun p =>
      let g := { f with noise := f.noise || samplesNoisy c, received := got }
      let a := evaluate w.params.cal w.params.window (p.station i).st
        (fieldCount w.params.field (got.take f.length))
      let w' := w.good a g.noise
      Part.conclude i
        ((p.endFrameRecord i g .ok).setWork i (.listen w'),
         if w.params.hits ≤ w'.hits then
          some { verdict := .pass, reason := .ok, flags := if w'.noise then resNoise else 0, value := a.value
                 aux := a.upper, attempts := w'.attempts, unit := w.params.cal.unit }
         else none))) ∧
  (∀ (s : State) (i : StationId) (f : Frame) (noisy : Bool) (t : Step) (removed : Nat), s.part.Runs →
    (s.part.station i).lc.frame = some f → f.window = false → f.fetch = false →
    (s.part.station i).lc.pendingStop = true → s.part.Works i t (.sendStop removed) →
    Answers (.frameEnd i noisy) s (fun p =>
      ((p.endFrameRecord i { f with noise := f.noise || noisy } .ok).setLc i fun l =>
        { l with pendingStop := false, state := .quiet }).completeStep i
        { verdict := .none, reason := .ok, flags := 0, value := removed, aux := 0, attempts := 0
          unit := 0 }) ∧
    Answers (.bitError i noisy) s fun p =>
      ((p.endFrameRecord i { f with noise := f.noise || noisy } .bitError).setLc i fun l =>
        { l with pendingStop := false, state := .quiet }).completeStep i
        { verdict := .none, reason := .ok, flags := 0, value := removed, aux := 0, attempts := 0
          unit := 0 })

/-- R108, R111: the window of a FETCH frame opens; a received character joins the answer, or decides MARK or FRAMING,
or ends the frame with OK or CHECK by the sum; the allowance with no start bit decides NO_RESPONSE; a false start
marks NOISE, as a command of its own whenever a window is open (the model's choice, log 18) and as a character whose
start bit reads recessive; a character outside a window or after a decision is discarded. A mark bit of 1 decides
MARK whatever the stop bit reads (log 23). -/
def Obligations.ResponsesAreHeard : Prop :=
  (∀ (s : State) (i : StationId) (f : Frame) (noisy : Bool), s.part.Runs →
    (s.part.station i).lc.frame = some f → f.window = false → f.fetch = true →
    Answers (.responseWindowOpen i noisy) s fun p => p.setLc i fun l =>
      { l with frame := some { f with noise := f.noise || noisy, window := true } }) ∧
  (∀ (s : State) (i : StationId) (f : Frame) (c : CharSamples), s.part.Runs →
    (s.part.station i).lc.frame = some f → f.window = true → f.decided = none →
    majority c.start = false →
    let f' := { f with noise := f.noise || samplesNoisy c }
    let got := f.received ++ [samplesByte c]
    (majority c.mark = true → Answers (.responseCharacterReceived i c) s fun p => p.setLc i fun l =>
      { l with frame := some { f' with decided := some .mark } }) ∧
    (majority c.mark = false → majority c.stop = false →
      Answers (.responseCharacterReceived i c) s fun p => p.setLc i fun l =>
        { l with frame := some { f' with decided := some .framing } }) ∧
    (majority c.mark = false → majority c.stop = true → f.received.length < f.length →
      Answers (.responseCharacterReceived i c) s fun p => p.setLc i fun l =>
        { l with frame := some { f' with received := got } }) ∧
    (majority c.mark = false → majority c.stop = true → f.length ≤ f.received.length →
      (s.part.station i).lc.pendingStop = false → (s.part.station i).lc.pendingReload = none →
      (s.part.station i).walker.work.hearsFrames = false →
      Answers (.responseCharacterReceived i c) s fun p =>
        p.endFrameRecord i { f' with received := got }
          (if headerByte f.address + byteSum got = 0 then .ok else .check))) ∧
  (∀ (s : State) (i : StationId) (f : Frame) (c : CharSamples), s.part.Runs →
    (s.part.station i).lc.frame = some f → f.window = true → f.decided = none →
    majority c.start = true →
    Answers (.responseCharacterReceived i c) s fun p => p.setLc i fun l =>
      { l with frame := some { f with noise := true } }) ∧
  (∀ (s : State) (i : StationId) (c : CharSamples), s.part.Runs →
    ((s.part.station i).lc.frame = none ∨
      ∃ f, (s.part.station i).lc.frame = some f ∧ (f.window = false ∨ f.decided.isSome = true)) →
    Leaves (.responseCharacterReceived i c) s s.part) ∧
  (∀ (s : State) (i : StationId) (f : Frame), s.part.Runs →
    (s.part.station i).lc.frame = some f → f.window = true → f.decided = none → f.received = [] →
    Answers (.responseAllowanceExpiry i) s fun p => p.setLc i fun l =>
      { l with frame := some { f with decided := some .noResponse } }) ∧
  (∀ (s : State) (i : StationId) (f : Frame), s.part.Runs →
    (s.part.station i).lc.frame = some f → f.window = true →
    Answers (.falseStart i) s fun p => p.setLc i fun l =>
      { l with frame := some { f with noise := true } })

/-- R116: a line found stuck takes the rule's steps in their order: an open window ends its frame with STUCK; a line
that was SYNCING or RUNNING loses its schedule and is QUIET, and a step that waits is answered; then the stuck flag is
set and the count goes up; then ATTN.LINE is raised. A line found stuck already, with no recessive bit since, and a
DORMANT one are not found stuck. A ONCE that waits completes with STUCK (its NOISE that of its own frame alone, the
model's choice, log 18), a pending STOP with what its take removed, a pending START with ERROR LINE_ERROR (R128;
with LIMITED if a period of its copy was clamped, log 37); a LISTEN takes the STUCK answer of its own entry as a miss, and of another's nothing (R173). -/
def Obligations.StuckLineIsCleared : Prop :=
  let told := fun (i : StationId) (p : Part) => (p.setLc i fun l =>
    { l with stuckFlag := true
             stuckCount := if l.stuckCount < 65535 then l.stuckCount + 1 else l.stuckCount }).raise (.line i)
  let cleared := fun (i : StationId) (p : Part) => p.setLc i fun l =>
    { l with state := .quiet, due := [], schedule := none, frame := none, gap := false
             pendingReload := none, pendingStop := false, stuckHeld := true }
  (∀ (s : State) (i : StationId) (recessive : Bool), s.part.Runs →
    (s.part.station i).lc.frame = none → ((s.part.station i).lc.stuckHeld = false ∨ recessive = true) →
    (s.part.station i).walker.work.hearsFrames = false →
    ((s.part.station i).lc.state = .quiet → Answers (.lineStuck i recessive) s fun p =>
      told i (p.setLc i fun l => { l with stuckHeld := true })) ∧
    ((s.part.station i).lc.state = .syncing ∨ (s.part.station i).lc.state = .running →
      Answers (.lineStuck i recessive) s fun p => told i (cleared i p))) ∧
  (∀ (s : State) (i : StationId) (recessive : Bool) (f : Frame), s.part.Runs →
    (s.part.station i).lc.frame = some f → f.window = true →
    (s.part.station i).lc.state = .running →
    ((s.part.station i).lc.stuckHeld = false ∨ recessive = true) →
    (s.part.station i).walker.work.hearsFrames = false →
    Answers (.lineStuck i recessive) s fun p => told i (cleared i (p.endFrameRecord i f .stuck))) ∧
  (∀ (s : State) (i : StationId) (recessive : Bool) (t : Step), s.part.Runs →
    (s.part.station i).lc.frame = none →
    (s.part.station i).lc.state = .syncing ∨ (s.part.station i).lc.state = .running →
    ((s.part.station i).lc.stuckHeld = false ∨ recessive = true) →
    (∀ (e : Fin 16), s.part.Works i t (.sendOnce e false) →
      Answers (.lineStuck i recessive) s fun p =>
        told i ((cleared i p).completeStep i (.done 0 7 0))) ∧
    (∀ w, s.part.Works i t (.listen w) →
      Answers (.lineStuck i recessive) s fun p => told i (cleared i p))) ∧
  (∀ (s : State) (i : StationId) (recessive : Bool) (f : Frame) (t : Step), s.part.Runs →
    (s.part.station i).lc.frame = some f → f.window = true →
    (s.part.station i).lc.state = .running →
    ((s.part.station i).lc.stuckHeld = false ∨ recessive = true) →
    let cut := fun p : Part => cleared i (p.endFrameRecord i f .stuck)
    (∀ (e : Fin 16), s.part.Works i t (.sendOnce e false) →
      Answers (.lineStuck i recessive) s fun p => told i ((cut p).completeStep i (.done 0 7 0))) ∧
    (s.part.Works i t (.sendOnce f.entry true) →
      Answers (.lineStuck i recessive) s fun p =>
        told i ((cut p).completeStep i (.done 0 7 (if f.noise = true then 1 else 0)))) ∧
    (∀ removed, s.part.Works i t (.sendStop removed) →
      Answers (.lineStuck i recessive) s fun p => told i ((cut p).completeStep i (.done 0 removed 0))) ∧
    (∀ enabled clamped, s.part.Works i t (.sendStart enabled clamped) →
      Answers (.lineStuck i recessive) s fun p =>
        told i ((cut p).completeStep i
          { verdict := .error, reason := .lineError, flags := if clamped = 0 then 0 else resLimited, value := 0
            aux := 0, attempts := 0, unit := 0 })) ∧
    (∀ w, s.part.Works i t (.listen w) →
      (w.params.entry = f.entry → Answers (.lineStuck i recessive) s fun p =>
        told i ((cut p).setWork i (.listen
          { w with attempts := if w.attempts < 65535 then w.attempts + 1 else w.attempts
                   hits := 0, lastMiss := some (.frame .stuck), noise := w.noise || f.noise }))) ∧
      (w.params.entry ≠ f.entry → Answers (.lineStuck i recessive) s fun p => told i (cut p)))) ∧
  (∀ (s : State) (i : StationId) (recessive : Bool), s.part.Runs →
    (s.part.station i).lc.state = .dormant ∨
      ((s.part.station i).lc.stuckHeld = true ∧ recessive = false) →
    Leaves (.lineStuck i recessive) s s.part)

/-! ### Acquisition (07) -/

/-- R132: with no reference check running, a grant goes to the first station after the last granted whose request
is in the queue, the last granted itself last; with an empty queue the converter idles. -/
def Obligations.ArbiterGrantsInTurn : Prop :=
  ∀ c : Converter, c.refCheck = none →
    ((∀ i : StationId, c.queue[i] = none) → c.grant = { c with sample := none }) ∧
    (∀ (n : Nat) (q : Request), 1 ≤ n → n ≤ 4 → c.queue[c.lastGranted + Fin.ofNat 4 n] = some q →
      (∀ m, 1 ≤ m → m < n → c.queue[c.lastGranted + Fin.ofNat 4 m] = none) →
      c.grant =
        { c with lastGranted := c.lastGranted + Fin.ofNat 4 n
                 sample := some ⟨.request (c.lastGranted + Fin.ofNat 4 n), q.hold, true⟩ })

/-- R129, R132, R133, R134, R136, R70, R71, R160: at a sample's end its code joins its request or its reference tap, or
is discarded after a withdrawal, and the next grant follows; a request's last sample hands its sum to the MEASURE
or the CONTACT that waits for it; the last reference sample records the means and raises ATTN.REF if one is more
than 16 codes out. A pin's resistance is the scaled value of its four samples, with 0 for one below 0, saturated at the
scale limit. A CONTACT whose last pin has been measured passes with every pin at or below the threshold and fails with
CONTACT_FAIL otherwise: its value the greatest resistance, its auxiliary value the lowest pin that has it, or the lowest
pin above the threshold, its attempts the number of pins, SATURATED if one saturated. A request stands in the queue
only for a BUSY station with its MEASURE or CONTACT in flight (R131): every step keeps this law. -/
def Obligations.ConverterSamplesEnd : Prop :=
  (∀ s t : State, s.part.PanelLaw → s.part.ConvLaw → step s = .next t → t.part.ConvLaw) ∧
  (∀ (s : State) (i : StationId) (q : Request) (hold : Nat) (uV : Int), s.part.Runs →
    s.part.conv.sample = some ⟨.request i, hold, true⟩ → s.part.conv.queue[i] = some q →
    q.done + 1 < q.samples →
    Answers (.sampleEnd uV) s fun p =>
      let q' : Request := { q with done := q.done + 1, sum := q.sum + conversionCode uV }
      { p with conv := { p.conv with queue := put p.conv.queue i (some q') }.grant }) ∧
  (∀ (s : State) (x : SampleInput) (hold : Nat) (uV : Int), s.part.Runs →
    s.part.conv.sample = some ⟨x, hold, false⟩ →
    Answers (.sampleEnd uV) s fun p => { p with conv := p.conv.grant }) ∧
  (∀ (s : State) (i : StationId) (q : Request) (hold : Nat) (uV : Int) (t : Step) (w : MeasureWork),
    s.part.Runs → s.part.conv.sample = some ⟨.request i, hold, true⟩ → s.part.conv.queue[i] = some q →
    q.samples ≤ q.done + 1 → q.requester = .walker → s.part.Works i t (.measure w) →
    w.gathering = .conversion →
    Answers (.sampleEnd uV) s fun p =>
      (Part.conclude i
        ({ p with conv := { p.conv with queue := put p.conv.queue i none } }.arrive i
          { w with refSuspect := w.refSuspect || p.conv.refFlag } t.traced
          (evaluate w.params.cal w.params.window (p.station i).st
            (analogCount (q.sum + conversionCode uV) q.samples w.params.cal.offset16)))).setConv
        Converter.grant) ∧
  (∀ (s : State) (i : StationId) (q : Request) (hold : Nat) (uV : Int) (t : Step) (w : ContactWork),
    s.part.Runs → s.part.conv.sample = some ⟨.request i, hold, true⟩ → s.part.conv.queue[i] = some q →
    q.samples ≤ q.done + 1 → q.requester = .fixture → s.part.Works i t (.contact w) →
    (let v := pinResistance w.cal (q.sum + conversionCode uV)
     let w' := w.add v.1 v.2
     (w.pin + 1 < w.pins → Answers (.sampleEnd uV) s fun p =>
      ((({ p with conv := { p.conv with queue := put p.conv.queue i none } }.writeContact i w.pin v.1).setWork i
        (.contact w')).startPin i w.cal (w.pin + 1)).setConv Converter.grant) ∧
     (w.pins ≤ w.pin + 1 → Answers (.sampleEnd uV) s fun p =>
      (((({ p with conv := { p.conv with queue := put p.conv.queue i none } }.writeContact i w.pin v.1).setWork i
        (.contact w')).setFx i fun f => { f with source := false, matrix := none }).completeStep i
          w'.result).setConv Converter.grant))) ∧
  (∀ (s : State) (high : Bool) (r : RefCheck) (hold : Nat) (uV : Int), s.part.Runs →
    s.part.conv.sample = some ⟨.reference high, hold, true⟩ → s.part.conv.refCheck = some r →
    (let code := conversionCode uV
     let r' : RefCheck :=
      { done := r.done + 1, high := if r.done < 16 then r.high + code else r.high
        low := if r.done < 16 then r.low else r.low + code }
     let meanOf := fun sum : Nat => (2 * sum + 16) / 32
     let far := fun mean nominal : Nat => decide (nominal + 16 < mean ∨ mean + 16 < nominal)
     let bad := far (meanOf r'.high) 3072 || far (meanOf r'.low) 1024
     (r.done < 31 → Answers (.sampleEnd uV) s fun p =>
      { p with conv := { p.conv with refCheck := some r' }.grant }) ∧
     (31 ≤ r.done → Answers (.sampleEnd uV) s fun p =>
      let p1 := { p with conv := { p.conv with refCheck := none, refFlag := bad } }.writeReference
        (meanOf r'.high) (meanOf r'.low) bad
      (if bad = true then { p1 with attn := p1.attn ||| (1#22 <<< 21) } else p1).setConv Converter.grant))) ∧
  (∀ (c : Calibration) (sum : Nat),
    let product : Int := (4 * sum - c.offset16) * c.gain
    let magnitude : Int := (product.natAbs + 32768) / 65536
    let v := (if product < 0 then -magnitude else magnitude) + c.base
    pinResistance c sum = (max 0 (min 999999999 v), decide (v < -999999999 ∨ 999999999 < v))) ∧
  (∀ (w0 : ContactWork) (pins : List (Int × Bool)), w0.pin = 0 → w0.firstAbove = none → w0.saturated = false →
    pins ≠ [] →
    let w := pins.foldl (fun w v => w.add v.1 v.2) w0
    let r := w.result
    (w.pins = w0.pins ∧ w.threshold = w0.threshold ∧ w.cal = w0.cal ∧ w.pin = pins.length) ∧
    r.attempts = pins.length ∧ r.unit = 3 ∧
    r.flags = (if ∃ v ∈ pins, v.2 = true then resSaturated else 0) ∧
    (∃ v ∈ pins, v.1 = r.value) ∧ (∀ v ∈ pins, v.1 ≤ r.value) ∧
    ((∀ v ∈ pins, v.1 ≤ w0.threshold) → r.verdict = .pass ∧ r.reason = .ok ∧
      ∃ (k : Nat) (v : Int × Bool), r.aux = k ∧ pins[k]? = some v ∧ v.1 = r.value ∧
        ∀ m < k, ∀ u, pins[m]? = some u → u.1 < r.value) ∧
    ∀ (k : Nat) (v : Int × Bool), pins[k]? = some v → (w0.threshold : Int) < v.1 →
      (∀ m < k, ∀ u, pins[m]? = some u → u.1 ≤ w0.threshold) →
      r.verdict = .fail ∧ r.reason = .contactFail ∧ r.aux = k) ∧
  (∀ uV : Int, 0 ≤ uV → uV < 4095000 → (conversionCode uV : Int) = uV / 1000) ∧
  (∀ uV : Int, 4095000 ≤ uV → conversionCode uV = 4095) ∧ (∀ uV : Int, uV ≤ 0 → conversionCode uV = 0)

/-- R138 to R144: a filtered edge changes the level and counts if the edge code selects it, in the monitor and
in the open window; a rejected excursion is counted (one that finds the count at 65,535 is a change of the input too: the
model's choice, log 44); a window closes when its length has passed; a meter counts
from the first rising edge, closes at the first rising edge after its gate, and ends NO_SIGNAL at its deadline;
either end publishes the meter's five header words (marks: log 15), and its published state is the one of the last
arming, end or disarm (R145). -/
def Obligations.InputsAndMetersCount : Prop :=
  (∀ (s : State) (i : StationId) (k : Fin 8) (tick : Tick), s.part.Runs →
    (s.part.station i).walker.state ≠ .off →
    (∀ n : Fin 2, (s.part.station i).aq.meters[n].state = .idle ∨
      (s.part.station i).aq.meters[n].input ≠ k) →
    Answers (.inputFilteredEdge i k tick) s fun p => p.setAq i fun a =>
      let n := a.inputs[k]
      let sel := selects n.edgeCode (!n.level)
      let n' : InputMonitor :=
        { n with level := !n.level, changed := true
                 edges := if sel = true ∧ n.edges < 65535 then n.edges + 1 else n.edges
                 lastEdge := if sel = true then p.rackTime else n.lastEdge }
      { a with inputs := put a.inputs k n'
               window := a.window.map fun w =>
                if w.input = k ∧ sel = true then { w with count := w.count + 1 } else w }) ∧
  (∀ (s : State) (i : StationId) (k : Fin 8), s.part.Runs → (s.part.station i).walker.state ≠ .off →
    Answers (.inputExcursionRejected i k) s fun p => p.setAq i fun a =>
      let n := a.inputs[k]
      let m := if n.rejected < 65535 then n.rejected + 1 else n.rejected
      { a with inputs := put a.inputs k { n with rejected := m, changed := true } }) ∧
  (∀ (s : State) (i : StationId) (w : EdgeWindow) (t : Step) (m : MeasureWork), s.part.Runs →
    (s.part.station i).aq.window = some w → w.length ≤ s.part.since w.start →
    s.part.Works i t (.measure m) → m.gathering = .window →
    Answers (.edgeWindowClose i) s fun p =>
      Part.conclude i
        ((p.setAq i fun a => { a with window := none }).arrive i m t.traced
          (evaluate m.params.cal m.params.window (p.station i).st w.count))) ∧
  (∀ rising : Bool, selects 2 rising = true ∧ (selects 0 rising = true ↔ rising = true) ∧
    (selects 1 rising = true ↔ rising = false)) ∧
  (∀ (m : Meter) (t : Tick), m.state = .armed →
    m.edge false t = ({ m with state := .counting, first := t, mark := t }, none) ∧
    m.edge true t = (m, none)) ∧
  (∀ (m : Meter) (t : Tick), m.state = .counting →
    m.edge false t = ({ m with periods := m.periods + 1, mark := t }, none) ∧
    m.edge true t = ({ m with highTicks := m.highTicks + (t - m.mark).toNat, mark := t }, none)) ∧
  (∀ (m : Meter) (t : Tick), m.state = .closing →
    m.edge false t =
      ({ m with state := .idle, shown := .idle, periods := m.periods + 1, mark := t, lastP := m.periods + 1
                lastT := (t - m.first).toNat, lastHc := m.highTicks, noSignal := false },
       some (m.periods + 1, (t - m.first).toNat, m.highTicks))) ∧
  (∀ (s : State) (i : StationId) (n : Fin 2), s.part.Runs →
    (s.part.station i).aq.meters[n].state = .counting →
    Answers (.meterGateEnd i n) s fun p => p.setAq i fun a =>
      { a with meters := put a.meters n { a.meters[n] with state := .closing } }) ∧
  (∀ (s : State) (i : StationId) (n : Fin 2) (t : Step) (w : MeasureWork), s.part.Runs →
    (s.part.station i).aq.meters[n].state ≠ .idle →
    3 * (s.part.station i).aq.meters[n].gate ≤ s.part.since (s.part.station i).aq.meters[n].armedAt →
    s.part.Works i t (.measure w) → w.gathering = .meter →
    Answers (.meterDeadline i n) s fun p =>
      let ended := fun m : Meter =>
        { m with state := .idle, shown := .idle, lastP := 0, lastT := 0, lastHc := 0, noSignal := true }
      Part.conclude i
        (((p.setAq i fun a => { a with meters := put a.meters n (ended a.meters[n]) }).mark i
          (meterMarks n)).arrive i w t.traced (evaluateNoSignal w.params.window (p.station i).st))) ∧
  (∀ (s : State) (i : StationId) (n : Fin 2) (tick : Tick) (t : Step) (w : MeasureWork), s.part.Runs →
    (s.part.station i).walker.state ≠ .off →
    (let a := (s.part.station i).aq
     let k := a.meters[n].input
     a.meters[n].state = .closing ∧ a.inputs[k].level = false ∧ a.meters[n + 1].state = .idle) →
    s.part.Works i t (.measure w) → w.gathering = .meter →
    Answers (.inputFilteredEdge i (s.part.station i).aq.meters[n].input tick) s fun p =>
      let m := (p.station i).aq.meters[n]
      let ended : Meter :=
        { m with state := .idle, shown := .idle, periods := m.periods + 1, mark := tick
                 lastP := m.periods + 1, lastT := (tick - m.first).toNat, lastHc := m.highTicks
                 noSignal := false }
      Part.conclude i
        (((p.setAq i fun a =>
          { a with inputs := put a.inputs m.input (a.inputs[m.input].edge p.rackTime)
                   window := a.window.map fun v => v.edge m.input a.inputs[m.input]
                   meters := put a.meters n ended }).mark i (meterMarks n)).arrive i w t.traced
          (w.params.judgeMeter (p.station i).st ended.lastP ended.lastT ended.lastHc))) ∧
  (∀ (n : Fin 2) (k : Nat), (meterMarks n).getLsbD k = true ↔ 21 + 5 * n.val ≤ k ∧ k < 26 + 5 * n.val) ∧
  (∀ (m : Meter) (x : Nat), (m.words x).head? =
    some (x, word4 m.shown.code (n8 m.input.val) (n8 m.gate) (n8 (m.gate / 256))))

/-- R146, R147, R148, R161, R196: the identity byte 0x4C makes the head present and starts its scan, any other makes it
absent; a LAMP MEASURE held for that read is then checked against the head as found: NO_HEAD without one, BAD_PARAM for
a cell outside its matrix, and otherwise its first attempt starts (after a settle timeout passed meanwhile too: the
model's choice, log 40). A row's read updates the configured cells of its row
and no other, writes the record of each cell that it changed (one it leaves as it was is not written: the model's
choice, log 39) and no other byte but the station's header, and moves to the next row; a lamp turns LIT at
its on threshold and DARK at its off threshold, and holds its state between them; each change counts a transition, and
an onset sets the last onset time and, if one was seen before, the blink period, saturating at 65,535 ms. -/
def Obligations.LampHeadIsScanned : Prop :=
  (∀ (s : State) (i : StationId) (b : Byte), s.part.Runs → s.part.AtRest i →
    (s.part.station i).aq.head.pending = true →
    Answers (.lampIdentityRead i b) s fun p => p.setAq i fun a =>
      { a with head := { a.head with pending := false, present := decide (b = 0x4C)
                                     scanning := decide (b = 0x4C), row := 0 } }) ∧
  (∀ (s : State) (i : StationId) (b : Byte) (t : Step) (m : MeasureParams) (r c : Nat) (item : LampItem),
    s.part.Runs → (s.part.station i).aq.head.pending = true → s.part.Works i t (.measureHeld m) →
    m.source = .lamp r c item →
    let h := (s.part.station i).aq.head
    let read := fun p : Part => p.setAq i fun a =>
      { a with head := { a.head with pending := false, present := decide (b = 0x4C)
                                     scanning := decide (b = 0x4C), row := 0 } }
    let refused := fun why : Reason => ({ verdict := .error, reason := why, flags := 0, value := 0, aux := 0
                                          attempts := 0, unit := 0 } : Result)
    (b ≠ 0x4C → Answers (.lampIdentityRead i b) s fun p => (read p).completeStep i (refused .noHead)) ∧
    (b = 0x4C → h.rows ≤ r ∨ h.columns ≤ c →
      Answers (.lampIdentityRead i b) s fun p => (read p).completeStep i (refused .badParam)) ∧
    ∀ count : Int, b = 0x4C → r < h.rows → c < h.columns → s.part.instantCount i m.source = some count →
      Answers (.lampIdentityRead i b) s fun p => Part.conclude i
        ((read p).settleLoop i
          { params := m, attempts := 0, hits := 0, last := none, lastMiss := none, refSuspect := false
            saturated := false, traceFull := false, gathering := .none, expired := false
            nextStart := p.rackTime + BitVec.ofNat 32 (if m.interval = 0 then 1 else m.interval) }
          (hasFlag t.flags flagTrace) (evaluate m.cal m.window (p.station i).st count))) ∧
  (∀ (s : State) (i : StationId) (b : Vector Byte 8), s.part.Runs →
    (s.part.station i).aq.head.scanning = true → ∃ q : Part,
      exec (.lampRowUpdate i b) s = .next { s with part := q } ∧
      (let h := (s.part.station i).aq.head
       let h' := (q.station i).aq.head
       (h.row + 1 < h.rows → h'.row = h.row + 1 ∧ h'.frames = h.frames) ∧
       (h.rows ≤ h.row + 1 → h'.row = 0 ∧ h'.frames = h.frames + 1) ∧
       (∀ (c : Fin 8) (k : Fin 64), k.val = 8 * h.row + c.val → c.val < h.columns →
        h'.cells[k] = h.cells[k].update h b[c] s.part.rackTime) ∧
       (∀ k : Fin 64, k.val < 8 * h.row ∨ 8 * h.row + 8 ≤ k.val ∨ 8 * h.row + h.columns ≤ k.val →
        h'.cells[k] = h.cells[k]) ∧
       (s.part.mem.wf = true →
        (∀ k : Fin 64, h'.cells[k] ≠ h.cells[k] →
          let x := Config.lampRecord i k.val
          let d := h'.cells[k]
          q.mem.readLE x 2 = d.transitions % 65536 ∧ q.mem.readLE (x + 2) 2 = d.onset.toNat % 65536 ∧
          q.mem.readLE (x + 4) 2 = d.blink % 65536 ∧ q.mem.read (x + 6) = d.intensity ∧
          q.mem.read (x + 7) = if d.lit = true then 1 else 0) ∧
        ∀ a, ¬InHeader i a →
          (∀ k : Fin 64, h'.cells[k] ≠ h.cells[k] →
            a < Config.lampRecord i k.val ∨ Config.lampRecord i k.val + 8 ≤ a) →
          q.mem.read a = s.part.mem.read a)) ∧
      (q.station i).walker = (s.part.station i).walker ∧ s.part.OthersStand q i ∧
      q.panel.showing = s.part.panel.showing ∧ q.conv = s.part.conv ∧ q.attn = s.part.attn) ∧
  (∀ (h : LampHead) (c : LampCell) (b : Byte) (now : Time),
    (c.update h b now).intensity = b ∧
    (c.lit = false → ((c.update h b now).lit = true ↔ h.onLevel ≤ b.toNat)) ∧
    (c.lit = true → ((c.update h b now).lit = false ↔ b.toNat ≤ h.offLevel)) ∧
    ((c.update h b now).transitions =
      if (c.update h b now).lit ≠ c.lit ∧ c.transitions < 65535 then c.transitions + 1 else c.transitions) ∧
    (c.lit = false → h.onLevel ≤ b.toNat →
      (c.update h b now).onset = now ∧ (c.update h b now).onsetSeen = true ∧
      (c.update h b now).blink =
        if c.onsetSeen = true then (if (now - c.onset).toNat < 65535 then (now - c.onset).toNat else 65535)
        else c.blink) ∧
    (c.lit = true ∨ b.toNat < h.onLevel →
      (c.update h b now).onset = c.onset ∧ (c.update h b now).onsetSeen = c.onsetSeen ∧
      (c.update h b now).blink = c.blink))

/-! ### The panel (10) -/

/-- R174, R181, R185 to R188: once a key's raw level has differed from its debounced level for the debounce time, the
level changes and the count begins anew. A press of a showing prompt outside its show guard answers it: YES passes,
NO fails with OPERATOR_NO (either acknowledges an ACKNOWLEDGE prompt), STOP fails with OPERATOR_STOP and abandons a
re-run first; an honoured REPEAT takes the re-run, a refused one gives a short beep; during a re-run the other keys
do nothing; YES or NO acknowledges a notice; a press with nothing showing or inside the show guard changes no entry;
a release changes the key's level alone; a press of a key already held, a release of one already released, and
either before the debounce time has passed change nothing. A REPEAT is honoured under the four conditions of R186. Its
re-take (R46) makes the DONE cell ACTIVE, keeps its run number and sequence, writes the other opening results, copies
the step uncounted beside the prompt's, moves no counter, position or run, pauses the prompt (one whose timeout has
just reached 0 with 1 ms left: log 19) and has the step worked as at a first take; its end writes results (the attempts
field holds the low 16 bits of a SET's ramp steps, where they exceed 65,535: the model's choice, log 36) and DONE,
counts the repeat, frees the prompt and moves nothing of the run, nor the last value, nor the station's state. -/
def Obligations.KeysAnswerPrompts : Prop :=
  (∀ (s : State) (key : Key) (e : PanelEntry), s.part.Runs →
    s.part.panel.keys[keyNumber key] = false → s.part.panel.showing = some e →
    250 ≤ s.part.since s.part.panel.showTime → e.notice = none → e.rerun = false →
    (s.part.station e.station).walker.rerun = none →
    s.part.config.panelDebounce ≤ s.part.panel.keyRaw[keyNumber key] →
    let held := fun c : Panel =>
      { c with keys := put c.keys (keyNumber key) true, keyRaw := put c.keyRaw (keyNumber key) 0 }
    let result := fun (v : Verdict) (r : Reason) (n : Int) =>
      ({ verdict := v, reason := r, flags := 0, value := n, aux := e.shown, attempts := e.repeatCount
         unit := 0 } : Result)
    (key = .yes → Answers (.keyPress key) s fun p =>
      (p.setPanel held).endShowing.completeStep e.station
        (if e.acknowledge then result .none .ok 1 else result .pass .ok 1)) ∧
    (key = .no → Answers (.keyPress key) s fun p =>
      (p.setPanel held).endShowing.completeStep e.station
        (if e.acknowledge then result .none .ok 2 else result .fail .operatorNo 2)) ∧
    (key = .stop → Answers (.keyPress key) s fun p =>
      (p.setPanel held).endShowing.completeStep e.station (result .fail .operatorStop 3)) ∧
    (key = .again → s.part.repeatAllowed e = false → Answers (.keyPress key) s fun p =>
      (p.setPanel held).beep 100) ∧
    (key = .again → s.part.repeatAllowed e = true → Answers (.keyPress key) s fun p =>
      (p.setPanel held).rerunTake e)) ∧
  (∀ (p : Part) (e : PanelEntry),
    let x := Config.cell e.station e.target
    e.target.val = (e.cell.val + 32 - e.repeatOffset) % 32 ∧
    (p.repeatAllowed e = true ↔
      1 ≤ e.repeatOffset ∧ e.repeatOffset ≤ 4 ∧ e.repeatCount < 3 ∧ p.mem.read x = cellDone ∧
      (Kind.ofCode (p.mem.read (x + 1)) = some .set ∨ Kind.ofCode (p.mem.read (x + 1)) = some .send ∨
        Kind.ofCode (p.mem.read (x + 1)) = some .wait) ∧
      p.mem.read (x + 36) = Verdict.none.code ∧ p.mem.readLE (x + 52) 2 = e.runNumber.toNat)) ∧
  (∀ (p : Part) (e : PanelEntry), p.mem.wf = true → p.panel.showing = some e → e.notice = none →
    (∀ v ∈ p.panel.queue, v.notice = none → v.station ≠ e.station) →
    let i := e.station
    let c := e.target
    let x := Config.cell i c
    let t : Step :=
      { cell := c, kind := p.mem.read (x + 1), flags := p.mem.read (x + 2), tag := p.mem.read (x + 3)
        params := BitVec.ofNat 256 (p.mem.readLE (x + 4) 32), takeTime := p.rackTime, counted := false
        work := .none }
    ∃ q : Part, p.rerunTake e = Part.conclude i (q.startStep i t) ∧
      q.mem.read x = cellActive ∧ (∀ n < 14, q.mem.read (x + 36 + n) = 0) ∧
      q.mem.readLE (x + 50) 2 = p.mem.readLE (x + 50) 2 ∧ q.mem.readLE (x + 52) 2 = p.mem.readLE (x + 52) 2 ∧
      q.mem.readLE (x + 54) 2 = 0 ∧ q.mem.readLE (x + 56) 4 = p.rackTime.toNat ∧
      q.mem.readLE (x + 60) 4 = 0 ∧
      (∀ a, a ≠ x → ¬(x + 36 ≤ a ∧ a < x + 64) → ¬(Config.showingRecord ≤ a ∧ a < Config.queueLength + 4) →
        q.mem.read a = p.mem.read a) ∧
      q.station i = { p.station i with walker := { (p.station i).walker with
                                                    rerun := some t, rerunCell := some c } } ∧
      p.OthersStand q i ∧
      q.panel = { p.panel with showing := some { e with
        remaining := if e.remaining = some 0 then some 1 else e.remaining, rerun := true } } ∧
      q = { p with mem := q.mem, panel := q.panel, stations := q.stations, touched := q.touched }) ∧
  (∀ (p : Part) (i : StationId) (t : Step), (p.station i).walker.rerun = some t →
    Part.conclude i (p, none) = p ∧ ∀ r, Part.conclude i (p, some r) = p.rerunEnd i t r) ∧
  (∀ (p : Part) (t : Step) (r : Result) (e : PanelEntry), p.mem.wf = true → p.panel.showing = some e →
    e.notice = none → (∀ v ∈ p.panel.queue, v.notice = none → v.station ≠ e.station) →
    let i := e.station
    let q := p.rerunEnd i t r
    q.mem.read (Config.cell i t.cell) = cellDone ∧
    q.mem.HoldsResult i t.cell r (p.since t.takeTime) ∧
    (∀ a, ¬InResult i t.cell a → ¬(Config.showingRecord ≤ a ∧ a < Config.queueLength + 4) →
      q.mem.read a = p.mem.read a) ∧
    q.station i = { p.station i with walker := { (p.station i).walker with rerun := none
                                                                           rerunCell := none } } ∧
    p.OthersStand q i ∧
    q.panel = { p.panel with showing := some { e with repeatCount := e.repeatCount + 1, rerun := false } } ∧
    q = { p with mem := q.mem, panel := q.panel, stations := q.stations, touched := q.touched
                 attn := if hasFlag t.flags flagNotify then p.attn ||| (1#22 <<< (5 * i.val)) else p.attn }) ∧
  (∀ (s : State) (key : Key) (e : PanelEntry), s.part.Runs →
    s.part.panel.keys[keyNumber key] = false → s.part.panel.showing = some e →
    250 ≤ s.part.since s.part.panel.showTime → e.notice = none → e.rerun = true →
    s.part.config.panelDebounce ≤ s.part.panel.keyRaw[keyNumber key] →
    let held := fun c : Panel =>
      { c with keys := put c.keys (keyNumber key) true, keyRaw := put c.keyRaw (keyNumber key) 0 }
    (key ≠ .stop → Answers (.keyPress key) s fun p => p.setPanel held) ∧
    (key = .stop → Answers (.keyPress key) s fun p =>
      ((p.setPanel held).abandonRerun e.station .repeatStop).endShowing.completeStep e.station
        { verdict := .fail, reason := .operatorStop, flags := 0, value := 3, aux := e.shown
          attempts := e.repeatCount, unit := 0 })) ∧
  (∀ (s : State) (key : Key) (e : PanelEntry), s.part.Runs → s.part.panel.keys[keyNumber key] = false →
    s.part.panel.showing = some e → 250 ≤ s.part.since s.part.panel.showTime → e.notice.isSome = true →
    s.part.config.panelDebounce ≤ s.part.panel.keyRaw[keyNumber key] →
    let held := fun c : Panel =>
      { c with keys := put c.keys (keyNumber key) true, keyRaw := put c.keyRaw (keyNumber key) 0 }
    (key = .yes ∨ key = .no → Answers (.keyPress key) s fun p => (p.setPanel held).endShowing) ∧
    (key = .again → Answers (.keyPress key) s fun p => (p.setPanel held).beep 100) ∧
    (key = .stop → Answers (.keyPress key) s fun p => p.setPanel held)) ∧
  (∀ (s : State) (key : Key), s.part.Runs → s.part.panel.keys[keyNumber key] = false →
    s.part.panel.showing = none ∨ s.part.since s.part.panel.showTime < 250 →
    s.part.config.panelDebounce ≤ s.part.panel.keyRaw[keyNumber key] →
    Answers (.keyPress key) s fun p => p.setPanel fun c =>
      { c with keys := put c.keys (keyNumber key) true, keyRaw := put c.keyRaw (keyNumber key) 0 }) ∧
  (∀ (s : State) (key : Key), s.part.Runs →
    s.part.panel.keys[keyNumber key] = true ∨
      s.part.panel.keyRaw[keyNumber key] < s.part.config.panelDebounce →
    Leaves (.keyPress key) s s.part) ∧
  (∀ (s : State) (key : Key), s.part.Runs → s.part.panel.keys[keyNumber key] = true →
    s.part.config.panelDebounce ≤ s.part.panel.keyRaw[keyNumber key] →
    Answers (.keyRelease key) s fun p => p.setPanel fun c =>
      { c with keys := put c.keys (keyNumber key) false, keyRaw := put c.keyRaw (keyNumber key) 0 }) ∧
  (∀ (s : State) (key : Key), s.part.Runs →
    s.part.panel.keys[keyNumber key] = false ∨
      s.part.panel.keyRaw[keyNumber key] < s.part.config.panelDebounce →
    Leaves (.keyRelease key) s s.part)

/-- R180, R185, R189, R192: a showing prompt whose remaining timeout is 0 fails with TIMEOUT; a render at each 200
ms shows the rendered text and publishes the figures; a notice sounds its long beep at its beep time, which moves
5000 ms on; the buzzer ends at its end. A text of 48 bytes renders as 48 characters: a byte of 0x20 to 0x7E as itself and
any other as a space, but for markers, the first of which is a 0x1B that is not the last byte of its line: the field it
names shows over its width, cut off at the end of the line, a field of one character with a space after it, an unknown
one as two spaces, and the examination goes on after it (R189; the places of line 2 that a cut field spans show their
bytes and are not examined: the model's choice, log 16). The fields show a station's figures as R190's table gives. -/
def Obligations.PanelTimersExpire : Prop :=
  (∀ (s : State) (e : PanelEntry), s.part.Runs → s.part.panel.showing = some e → e.notice = none →
    e.remaining = some 0 → e.rerun = false →
    Answers .promptTimeout s fun p => p.endShowing.completeStep e.station
      { verdict := .fail, reason := .timeout, flags := 0, value := 0, aux := e.shown
        attempts := e.repeatCount, unit := 0 }) ∧
  (∀ (s : State) (e : PanelEntry), s.part.Runs → s.part.panel.showing = some e →
    0 < s.part.since s.part.panel.showTime → s.part.since s.part.panel.showTime % 200 = 0 →
    Answers .panelRender s fun p => (p.showText (p.renderEntry e)).publishFigures) ∧
  (∀ (s : State) (e : PanelEntry), s.part.Runs → s.part.panel.showing = some e → e.notice.isSome = true →
    s.part.reached s.part.panel.beepTime = true →
    Answers .noticeBeep s fun p => p.setPanel fun c =>
      { c with buzzerEnd := some (laterEnd p.rackTime c.buzzerEnd 1000), beepTime := c.beepTime + 5000 }) ∧
  (∀ (s : State) (stop : Time), s.part.Runs → s.part.panel.buzzerEnd = some stop →
    s.part.reached stop = true →
    Answers .buzzerEnd s fun p => p.setPanel fun c => { c with buzzerEnd := none }) ∧
  (∀ (fields : Byte → Option (List Byte)) (text : List Byte), (renderText fields text).length ≤ 48) ∧
  (let shown := fun b : Byte => if 0x20 ≤ b.toNat ∧ b.toNat ≤ 0x7E then b else (0x20 : Byte)
   ∀ (fields : Byte → Option (List Byte)) (text : List Byte), text.length = 48 →
    (∀ code cs, fields code = some cs → cs ≠ []) →
    let rest := fun n : Nat => (renderText fields (List.replicate n (0x20 : Byte) ++ text.drop n)).drop n
    (renderText fields text).length = 48 ∧
    ((∀ b ∈ text, b ≠ 0x1B) → renderText fields text = text.map shown) ∧
    ∀ (pre post : List Byte), text = pre ++ 0x1B :: post → (∀ b ∈ pre, b ≠ 0x1B) →
      let pos := pre.length
      (pos % 24 = 23 → renderText fields text = pre.map shown ++ 0x20 :: rest (pos + 1)) ∧
      ∀ (code : Byte) (more : List Byte), post = code :: more → pos % 24 ≠ 23 →
        (fields code = none → renderText fields text = pre.map shown ++ 0x20 :: 0x20 :: rest (pos + 2)) ∧
        (∀ c, fields code = some [c] →
          renderText fields text = pre.map shown ++ c :: 0x20 :: rest (pos + 2)) ∧
        ∀ cs, fields code = some cs → 2 ≤ cs.length →
          let room := 24 - pos % 24
          renderText fields text = (pre.map shown ++ cs.take room ++
            ((text.drop (pos + room)).take (cs.length - room)).map shown ++ rest (pos + cs.length)).take 48) ∧
  (∀ (p : Part) (i : StationId),
    let x := p.station i
    let fields := p.fieldFor (some i)
    let right := fun (w : Nat) (cs : List Byte) => some ((List.replicate (w - cs.length) (0x20 : Byte) ++ cs).take w)
    fields 0x01 = some [n8 (0x30 + i.val)] ∧
    fields 0x02 = right 5 (decimal x.walker.run.number.toNat) ∧
    (∀ n : Nat, x.walker.lastValue = n → fields 0x03 = right 10 (decimal n)) ∧
    (∀ n : Nat, x.walker.lastValue = -(n : Int) → n ≠ 0 → fields 0x03 = right 10 (0x2D :: decimal n)) ∧
    (x.walker.lastUnit = 0 → fields 0x04 = some [0x20, 0x20, 0x20, 0x20]) ∧
    (x.walker.lastUnit = 1 → fields 0x04 = some [0x6D, 0x56, 0x20, 0x20]) ∧
    (x.walker.lastUnit = 2 → fields 0x04 = some [0x6D, 0x41, 0x20, 0x20]) ∧
    (x.walker.lastUnit = 3 → fields 0x04 = some [0x6D, 0x4F, 0x68, 0x6D]) ∧
    (x.walker.lastUnit = 4 → fields 0x04 = some [0x4F, 0x68, 0x6D, 0x20]) ∧
    (x.walker.lastUnit = 5 → fields 0x04 = some [0x6F, 0x2F, 0x6F, 0x6F]) ∧
    (x.walker.lastUnit = 6 → fields 0x04 = some [0x6D, 0x73, 0x20, 0x20]) ∧
    (x.walker.lastUnit = 7 → fields 0x04 = some [0x6D, 0x48, 0x7A, 0x20]) ∧
    (x.walker.lastUnit = 8 → fields 0x04 = some [0x6B, 0x6D, 0x2F, 0x68]) ∧
    (x.walker.lastUnit = 9 → fields 0x04 = some [0x72, 0x70, 0x6D, 0x20]) ∧
    (∀ k : Fin 4, fields (n8 (0x10 + k.val)) = right 10 (decimal x.st.pg[k].present) ∧
      (x.st.lv[k].present ≠ 65535 → fields (n8 (0x18 + k.val)) = right 10 (decimal x.st.lv[k].present)) ∧
      (x.st.lv[k].present = 65535 →
        fields (n8 (0x18 + k.val)) = right 10 [0x4F, 0x50, 0x45, 0x4E])) ∧
    (x.fx.code ≠ 63 → fields 0x20 =
      some [n8 (0x30 + x.fx.code.toNat / 10), n8 (0x30 + x.fx.code.toNat % 10)]) ∧
    (x.fx.code = 63 → fields 0x20 = some [0x2D, 0x2D]) ∧
    (∀ c : BitVec 6, x.fx.captured = some c → fields 0x21 = right 10 (decimal (p.cycleCount c.toNat))) ∧
    (x.fx.captured = none → fields 0x21 = some (List.replicate 10 0x20)) ∧
    ∀ code : Byte, fields code = none ↔
      ¬((1 ≤ code.toNat ∧ code.toNat ≤ 4) ∨ (0x10 ≤ code.toNat ∧ code.toNat ≤ 0x13) ∨
        (0x18 ≤ code.toNat ∧ code.toNat ≤ 0x1B) ∨ code = 0x20 ∨ code = 0x21)) ∧
  ∀ n : Nat, n < 10 ^ 20 →
    (∀ b ∈ decimal n, 0x30 ≤ b.toNat ∧ b.toNat ≤ 0x39) ∧
    (decimal n).foldl (fun v b => 10 * v + (b.toNat - 0x30)) 0 = n ∧
    ∃ b rest, decimal n = b :: rest ∧ (b = 0x30 → n = 0 ∧ rest = [])

/-- R178, R179: a queue entry is inserted at the end of its class's group, URGENT before NORMAL; when the showing
entry ends the head of the queue is shown, and with an empty queue nothing shows. A new entry is shown if nothing
is, and queued otherwise; but a notice takes the place of a showing NORMAL prompt, which goes to the front of the
NORMAL group with its figures as they stand (R183; a timeout that has just reached 0 with 1 ms: log 19). An entry that
comes to show is displayed as it renders (R189), and a panel that comes to show nothing displays the idle text, its
fields as spaces, or 48 spaces for slot 255 (R191); the display image is written if it changed (a host's write stands
until then: log 14). Placing and ending leave the queue image and the showing entry record of the panel as it then
stands (R175, 12.2; what R201 leaves open of an empty place, 0, is the model's choice, log 18; the low 32 bits of a
prompt's shown ms: log 43; a notice's shown ms 0: log 42). No placing or ending moves a station. A station stands in the
panel at most once, so that the queue holds at most 3 entries while one shows and 4 otherwise, with a prompt only while
it is WAITING on it and a notice only while it is FAULTED: every step keeps this law (R178). -/
def Obligations.PanelQueueKeepsClasses : Prop :=
  let shows := fun (p q : Part) (text : List Byte) =>
    q.panel.display = text ∧
    (p.mem.wf = true → text.length ≤ 48 →
      (p.panel.image ≠ some text → q.mem.bytes Config.displayImage text.length = text) ∧
      (p.panel.image = some text → p.mem.SameIn q.mem Config.displayImage 48))
  let published := fun (p q : Part) => p.mem.wf = true →
    (let m := q.mem
     let x := Config.showingRecord
     match q.panel.showing with
     | none => m.read x = 255 ∧ ∀ n < 15, m.read (x + 1 + n) = 0
     | some e =>
       m.read x = n8 e.station.val ∧ m.read (x + 1) = (if e.notice.isSome = true then 1 else 0) ∧
       m.read (x + 2) = (if e.urgent = true then 1 else 0) ∧ m.read (x + 3) = n8 e.slot ∧
       m.read (x + 4) = (if e.notice.isSome = true then 255 else n8 e.cell.val) ∧
       m.read (x + 5) = n8 e.repeatCount ∧ m.read (x + 6) = n8 e.repeatOffset ∧
       m.read (x + 7) = (if e.rerun = true then 1 else 0) ∧
       (e.remaining = none → m.readLE (x + 8) 4 = 0xFFFFFFFF) ∧
       (∀ ms, e.remaining = some ms → m.readLE (x + 8) 4 = ms % 4294967296) ∧
       m.readLE (x + 12) 4 = e.shown % 4294967296) ∧
    (∀ n : Fin 4,
      let m := q.mem
      let x := Config.queueImage + 8 * n.val
      match q.panel.queue[n.val]? with
      | none => m.read x = 255 ∧ ∀ k < 7, m.read (x + 1 + k) = 0
      | some e =>
        m.read x = n8 e.station.val ∧ m.read (x + 1) = (if e.notice.isSome = true then 1 else 0) ∧
        m.read (x + 2) = (if e.urgent = true then 1 else 0) ∧ m.read (x + 3) = n8 e.slot ∧
        (e.remaining = none → m.readLE (x + 4) 4 = 0xFFFFFFFF) ∧
        ∀ ms, e.remaining = some ms → m.readLE (x + 4) 4 = ms % 4294967296) ∧
    q.mem.read Config.queueLength = n8 q.panel.queue.length
  (∀ s t : State, s.part.PanelLaw → step s = .next t → t.part.PanelLaw) ∧
  (∀ p : Part, p.PanelLaw → p.panel.queue.length ≤ if p.panel.showing.isSome = true then 3 else 4) ∧
  (∀ (q : List PanelEntry) (e : PanelEntry),
    q.Pairwise (fun a b => a.urgent = false → b.urgent = false) →
    (enqueue q e).Pairwise (fun a b => a.urgent = false → b.urgent = false) ∧
    (enqueue q e).Perm (e :: q) ∧
    (enqueue q e).filter (·.urgent == e.urgent) = q.filter (·.urgent == e.urgent) ++ [e]) ∧
  (∀ (p : Part) (e : PanelEntry), (e.notice.isSome = true → p.renderEntry e = e.text) ∧
    (e.notice = none → p.renderEntry e = renderText (p.fieldFor (some e.station)) e.text)) ∧
  (∀ (p : Part) (e : PanelEntry) (rest : List PanelEntry), p.panel.queue = e :: rest →
    p.endShowing.panel.showing = some e ∧ p.endShowing.panel.queue = rest ∧
    p.endShowing.panel.showTime = p.rackTime ∧ shows p p.endShowing (p.renderEntry e) ∧
    published p p.endShowing) ∧
  (∀ p : Part, p.panel.queue = [] →
    let slot := p.config.idleSlot
    let spaces := fun code : Byte => (fieldWidth code).map fun width => List.replicate width (0x20 : Byte)
    p.endShowing.panel.showing = none ∧ p.endShowing.panel.queue = [] ∧
    (slot = 255 → shows p p.endShowing (List.replicate 48 0x20)) ∧
    (slot ≠ 255 → shows p p.endShowing (renderText spaces (p.mem.bytes (0x100 + 48 * slot) 48))) ∧
    published p p.endShowing) ∧
  (∀ p : Part, p.endShowing.stations = p.stations ∧ p.endShowing.attn = p.attn ∧
    p.endShowing.conv = p.conv) ∧
  (∀ (p : Part) (e : PanelEntry), p.panel.showing = none →
    (p.placeEntry e).panel.showing = some e ∧ (p.placeEntry e).panel.queue = p.panel.queue ∧
    (p.placeEntry e).panel.showTime = p.rackTime ∧ shows p (p.placeEntry e) (p.renderEntry e)) ∧
  (∀ (p : Part) (e cur : PanelEntry), p.panel.showing = some cur →
    (e.notice.isSome = true → cur.notice = none → cur.urgent = false →
      let back := { cur with remaining := if cur.remaining = some 0 then some 1 else cur.remaining }
      let queue := p.panel.queue.filter (fun v => v.urgent = true) ++
        back :: p.panel.queue.filter (fun v => v.urgent = false)
      (p.placeEntry e).panel.showing = some e ∧ (p.placeEntry e).panel.showTime = p.rackTime ∧
      (p.placeEntry e).panel.queue = queue ∧ shows p (p.placeEntry e) (p.renderEntry e) ∧
      (p.panel.queue.Pairwise (fun a b => a.urgent = false → b.urgent = false) →
        queue.Pairwise (fun a b => a.urgent = false → b.urgent = false))) ∧
    (e.notice = none ∨ cur.notice.isSome = true ∨ cur.urgent = true →
      (p.placeEntry e).panel.showing = some cur ∧ (p.placeEntry e).panel.showTime = p.panel.showTime ∧
      (p.placeEntry e).panel.queue = enqueue p.panel.queue e ∧
      (p.placeEntry e).panel.display = p.panel.display ∧
      p.mem.SameIn (p.placeEntry e).mem Config.displayImage 48)) ∧
  ∀ (p : Part) (e : PanelEntry), (p.placeEntry e).stations = p.stations ∧ (p.placeEntry e).attn = p.attn ∧
    (p.placeEntry e).conv = p.conv ∧ published p (p.placeEntry e)

/-! ### Judgement arithmetic (08) -/

/-- R155: V is C × gain / 65,536, computed on the magnitude with 32,768 added and the remainder discarded, given
the sign of C × gain, plus the base; the pairs lie in their ranges whichever source gives them; a gain of 65,536
passes C through, one of g × 4,096 gives g units for each 16 of C, a gain of 0 gives the base, and the unit code
takes no part. Before it, C: for ANALOG the mean of N samples in sixteenths rounded half up, less the offset (R151);
the datum itself for a source read directly (R152); the frequency or duty of a meter's hand-over rounded half up
(R153; of 0 ticks the rule states none: log 13's free value); the field of a LISTEN's data (R154). -/
def Obligations.ScalingRoundsAway : Prop :=
  (∀ (c : Calibration) (count : Int),
    let product := count * c.gain
    let magnitude : Int := (product.natAbs + 32768) / 65536
    scaled c count = (if product < 0 then -magnitude else magnitude) + c.base) ∧
  (∀ (c : Calibration) (count : Int),
    let product := count * c.gain
    let rounded := scaled c count - c.base
    2 * |65536 * rounded - product| ≤ 65536 ∧
      (2 * |65536 * rounded - product| = 65536 → |product| < |65536 * rounded|)) ∧
  (∀ (p : Part) (i : StationId) (k : Nat) (c : Calibration), p.calibration i k = some c →
    c.gain ≤ 16777215 ∧ -999999999 ≤ c.base ∧ c.base ≤ 999999999) ∧
  (∀ (q : BitVec 256) (unit : Nat) (c : Calibration), ownScale q unit = some c →
    c.gain ≤ 16777215 ∧ -999999999 ≤ c.base ∧ c.base ≤ 999999999) ∧
  (∀ (c : Calibration) (count : Int), c.gain = 65536 → scaled c count = count + c.base) ∧
  (∀ (c : Calibration) (g : Nat) (mV : Int), c.gain = g * 4096 → scaled c (16 * mV) = g * mV + c.base) ∧
  (∀ (c : Calibration) (count : Int), c.gain = 0 → scaled c count = c.base) ∧
  (∀ (c : Calibration) (count : Int) (unit : Nat), scaled { c with unit := unit } count = scaled c count) ∧
  (∀ (sum k : Nat) (offset16 : Int), k ≤ 6 → sum ≤ 4095 * 2 ^ k →
    let half := if k = 0 then 0 else 2 ^ k / 2
    let mean := (16 * sum + half) / 2 ^ k
    analogCount sum (2 ^ k) offset16 = (mean : Int) - offset16 ∧ mean ≤ 65520 ∧
      (k ≤ 4 → 2 ^ k * mean = 16 * sum)) ∧
  (∀ periods ticks : Nat, ticks ≠ 0 →
    freqCount periods ticks = ((2 * periods * 10000000000 + ticks) / (2 * ticks) : Nat)) ∧
  (∀ highTicks ticks : Nat, ticks ≠ 0 →
    dutyCount highTicks ticks = ((2 * highTicks * 1000 + ticks) / (2 * ticks) : Nat) ∧
    (highTicks ≤ ticks → dutyCount highTicks ticks ≤ 1000)) ∧
  (∀ (f : Field) (data : List Byte) (a b : Byte), data[f.offset]? = some a →
    (f.wide = false → f.signed = false → fieldCount f data = a.toNat) ∧
    (f.wide = false → f.signed = true →
      fieldCount f data = if a.toNat < 128 then (a.toNat : Int) else a.toNat - 256) ∧
    (f.wide = true → data[f.offset + 1]? = some b →
      let v : Nat := if f.highFirst = true then 256 * a.toNat + b.toNat else a.toNat + 256 * b.toNat
      (f.signed = false → fieldCount f data = v) ∧
      (f.signed = true → fieldCount f data = if v < 32768 then (v : Int) else v - 65536))) ∧
  (∀ (p : Part) (i : StationId),
    let x := p.station i
    p.instantCount i .supplyI = some (x.ps.current : Int) ∧
    p.instantCount i .supplyV = some (x.ps.voltage : Int) ∧
    (∀ k : Fin 8, p.instantCount i (.level k) = some (if x.aq.inputs[k].level = true then 1 else 0)) ∧
    (∀ (r c : Nat) (k : Fin 64), c < 8 → k.val = 8 * r + c →
      p.instantCount i (.lamp r c .intensity) = some (x.aq.head.cells[k].intensity.toNat : Int) ∧
      p.instantCount i (.lamp r c .state) = some (if x.aq.head.cells[k].lit = true then 1 else 0) ∧
      p.instantCount i (.lamp r c .blink) = some (x.aq.head.cells[k].blink : Int)) ∧
    (∀ source : Source, p.instantCount i source = none ↔
      (∃ ch k, source = .analog ch k) ∨ (∃ n k g, source = .freq n k g ∨ source = .duty n k g) ∨
      ∃ k n, source = .edges k n))

/-- R156, R158: every value and bound an evaluation gives lies within the scale limit for a window whose bounds do;
SATURATED is set exactly when V lay outside it; a TRACK window's lower bound is never above its upper bound. Its
bounds are E minus and plus the tolerance, each saturated, where E is X × ratio / 1,024 rounded away on the magnitude,
plus the bias, saturated, and X the present value of the channel. -/
def Obligations.EvaluationsStayInScale : Prop :=
  (∀ (source : Channel) (ratio bias tolerance : Int) (image : Stimulus),
    let x : Int := match source with
      | .pg k => image.pg[k].present
      | .lv k => image.lv[k].present
      | .mv k => image.mv[k].toInt
    let product := x * ratio
    let magnitude : Int := (product.natAbs + 512) / 1024
    let held := fun v : Int => max (-999999999) (min 999999999 v)
    let e := held ((if product < 0 then -magnitude else magnitude) + bias)
    (Window.track source ratio bias tolerance).bounds image = (held (e - tolerance), held (e + tolerance))) ∧
  ∀ (c : Calibration) (w : Window) (image : Stimulus) (count : Int),
    (∀ low high, w = .abs low high → inScale low = true ∧ inScale high = true) →
    (∀ source ratio bias tolerance, w = .track source ratio bias tolerance → 0 ≤ tolerance) →
    let a := evaluate c w image count
    inScale a.value = true ∧ inScale a.lower = true ∧ inScale a.upper = true ∧ inScale a.judged = true ∧
    (a.saturated = true ↔ (scaled c count < -999999999 ∨ 999999999 < scaled c count)) ∧
    (a.saturated = false → a.value = scaled c count) ∧
    (∀ source ratio bias tolerance, w = .track source ratio bias tolerance → a.lower ≤ a.upper)

/-- R157, R159: an ABS window has the bounds of the step's copy at every attempt, within the scale limit and in order
by the step's checks; the class of an attempt follows the order of precedence NO_SIGNAL, OUT_OF_SCALE, BELOW,
ABOVE, IN, its judged bound follows the class, and the class gives a failing verdict its reason. -/
def Obligations.AttemptsAreClassified : Prop :=
  (∀ (low high : Int) (image : Stimulus), (Window.abs low high).bounds image = (low, high)) ∧
  (∀ (q : BitVec 256) (low high : Int), windowParams q = some (.abs low high) →
    inScale low = true ∧ inScale high = true ∧ low ≤ high) ∧
  (∀ (w : Window) (image : Stimulus),
    (evaluateNoSignal w image).cls = .noSignal ∧ (evaluateNoSignal w image).value = 0 ∧
    (evaluateNoSignal w image).judged = (w.bounds image).2) ∧
  (∀ (c : Calibration) (w : Window) (image : Stimulus) (count : Int),
    let a := evaluate c w image count
    (a.saturated = true → a.cls = .outOfScale) ∧
    (a.saturated = false → a.value < a.lower → a.cls = .below) ∧
    (a.saturated = false → ¬a.value < a.lower → a.upper < a.value → a.cls = .above) ∧
    (a.saturated = false → ¬a.value < a.lower → ¬a.upper < a.value → a.cls = .inWindow) ∧
    (a.cls = .below → a.judged = a.lower) ∧ (a.cls ≠ .below → a.judged = a.upper) ∧
    a.lower = (w.bounds image).1 ∧ a.upper = (w.bounds image).2) ∧
  measureReason (some (.attempt .below)) = .belowLimit ∧
  measureReason (some (.attempt .above)) = .aboveLimit ∧
  measureReason (some (.attempt .outOfScale)) = .outOfScale ∧
  measureReason (some (.attempt .noSignal)) = .noSignal ∧
  (∀ (c : AttemptClass) (n : Nat), listenReason (some (.attempt c)) n = measureReason (some (.attempt c))) ∧
  (∀ (w : MeasureWork) (a : Attempt), (w.count a).hits = if a.cls = .inWindow then w.hits + 1 else 0) ∧
  (∀ (w : ListenWork) (a : Attempt) (noise : Bool),
    (w.good a noise).hits = if a.cls = .inWindow then w.hits + 1 else 0) ∧
  (∀ (r : Reason) (flags : BitVec 16) (a : Attempt) (n unit : Nat),
    (failResult r flags (some a) n unit).aux = a.judged ∧ (passResult flags a n unit).aux = a.upper)
end

