-- ==== Sys2Proof/Laws/State.lean ====
section
/-! SUPPORT. What each update of the part leaves in each field: one lemma per field per update. -/

namespace Sys2Proof.Machine

/-! ### One of a fixed number of like things -/

@[simp] theorem put_same {α : Type} {n : Nat} (v : Vector α n) (i : Fin n) (a : α) :
    (put v i a)[i.val] = a := by
  simp [put]

@[simp] theorem put_other {α : Type} {n : Nat} (v : Vector α n) (i j : Fin n) (a : α) (h : i ≠ j) :
    (put v i a)[j.val] = v[j.val] := by
  have h' : i.val ≠ j.val := fun e => h (Fin.ext e)
  simp [put, Vector.getElem_set_ne, h']

@[simp] theorem mapEach_get {α β : Type} {n : Nat} (f : α → β) (v : Vector α n) (i : Nat) (h : i < n) :
    (mapEach f v)[i] = f v[i] := by
  simp [mapEach]

/-! ### Station columns -/

@[simp] theorem modify_station_same (p : Part) (i : StationId) (f : Station → Station) :
    (p.modify i f).station i = f (p.station i) := by
  simp [Part.modify, Part.station]

@[simp] theorem modify_station_other (p : Part) (i j : StationId) (f : Station → Station) (h : i ≠ j) :
    (p.modify i f).station j = p.station j := by
  simp [Part.modify, Part.station, h]

@[simp] theorem modify_touched (p : Part) (i : StationId) (f : Station → Station) :
    (p.modify i f).touched = put p.touched i (p.touched[i] ||| (p.station i).marks (f (p.station i))) := rfl

/-- A change of a station column is the change of the column with its marks. -/
theorem modify_eq (p : Part) (i : StationId) (f : Station → Station) :
    p.modify i f =
      { p with stations := put p.stations i (f (p.station i))
               touched := put p.touched i (p.touched[i] ||| (p.station i).marks (f (p.station i))) } := rfl

/-- Two changes of one station column are one change where no header word comes back to what it was. -/
theorem modify_modify (p : Part) (i : StationId) (f g : Station → Station)
    (h : (p.station i).marks (g (f (p.station i))) =
      (p.station i).marks (f (p.station i)) ||| (f (p.station i)).marks (g (f (p.station i)))) :
    (p.modify i f).modify i g = p.modify i fun x => g (f x) := by
  rw [modify_eq, modify_station_same, modify_eq, modify_eq, h]
  simp [put, BitVec.or_assoc]

/-- Changes that agree on the station column as it stands are the same change. -/
theorem modify_congr (p : Part) (i : StationId) (f g : Station → Station)
    (h : f (p.station i) = g (p.station i)) : p.modify i f = p.modify i g := by
  rw [modify_eq, modify_eq, h]

/-- Words that are alike are not due and give no marks. -/
theorem dueWords_same (l : List (Nat × Word)) : dueWords l l 0 = [] := by
  unfold dueWords
  rw [List.map_eq_nil_iff, List.filter_eq_nil_iff]
  rintro ⟨a, b⟩ hc
  have : a = b := by
    induction l with
    | nil => simp at hc
    | cons x l ih =>
      rw [List.zip_cons_cons, List.mem_cons] at hc
      rcases hc with hc | hc
      · cases hc; rfl
      · exact ih hc
  simp [this]

/-- Columns that show the same header give no marks. -/
theorem marks_header {x y : Station} (h : x.header = y.header) : x.marks y = 0 := by
  rw [Station.marks, h, dueWords_same]; rfl

@[simp] theorem marks_same (x : Station) : x.marks x = 0 := marks_header rfl

@[simp] theorem put_get {α : Type} {n : Nat} (v : Vector α n) (i : Fin n) : put v i v[i.val] = v := by
  simp [put]

/-- A change of the station column that its header does not show moves the column alone. -/
theorem modify_hidden (p : Part) (i : StationId) (f : Station → Station)
    (h : (p.station i).header = (f (p.station i)).header) :
    p.modify i f = { p with stations := put p.stations i (f (p.station i)) } := by
  rw [modify_eq, marks_header h]
  simp

/-- A change that leaves the station column as it stands is none. -/
theorem modify_same (p : Part) (i : StationId) (f : Station → Station)
    (h : f (p.station i) = p.station i) : p.modify i f = p := by
  rw [modify_hidden p i f (by rw [h]), h]
  exact congrArg (fun t => { p with stations := t }) (put_get p.stations i)

@[simp] theorem setWalker_station_same (p : Part) (i : StationId) (f : Walker → Walker) :
    (p.setWalker i f).station i = { p.station i with walker := f (p.station i).walker } := by
  simp [Part.setWalker]

@[simp] theorem setWalker_station_other (p : Part) (i j : StationId) (f : Walker → Walker) (h : i ≠ j) :
    (p.setWalker i f).station j = p.station j := by
  simp [Part.setWalker, h]

@[simp] theorem setFx_station_same (p : Part) (i : StationId) (f : Fixture → Fixture) :
    (p.setFx i f).station i = { p.station i with fx := f (p.station i).fx } := by
  simp [Part.setFx]

@[simp] theorem setFx_station_other (p : Part) (i j : StationId) (f : Fixture → Fixture) (h : i ≠ j) :
    (p.setFx i f).station j = p.station j := by
  simp [Part.setFx, h]

@[simp] theorem setPs_station_same (p : Part) (i : StationId) (f : Supply → Supply) :
    (p.setPs i f).station i = { p.station i with ps := f (p.station i).ps } := by
  simp [Part.setPs]

@[simp] theorem setPs_station_other (p : Part) (i j : StationId) (f : Supply → Supply) (h : i ≠ j) :
    (p.setPs i f).station j = p.station j := by
  simp [Part.setPs, h]

@[simp] theorem setSt_station_same (p : Part) (i : StationId) (f : Stimulus → Stimulus) :
    (p.setSt i f).station i = { p.station i with st := f (p.station i).st } := by
  simp [Part.setSt]

@[simp] theorem setSt_station_other (p : Part) (i j : StationId) (f : Stimulus → Stimulus) (h : i ≠ j) :
    (p.setSt i f).station j = p.station j := by
  simp [Part.setSt, h]

@[simp] theorem setLc_station_same (p : Part) (i : StationId) (f : Line → Line) :
    (p.setLc i f).station i = { p.station i with lc := f (p.station i).lc } := by
  simp [Part.setLc]

@[simp] theorem setLc_station_other (p : Part) (i j : StationId) (f : Line → Line) (h : i ≠ j) :
    (p.setLc i f).station j = p.station j := by
  simp [Part.setLc, h]

@[simp] theorem setAq_station_same (p : Part) (i : StationId) (f : Monitors → Monitors) :
    (p.setAq i f).station i = { p.station i with aq := f (p.station i).aq } := by
  simp [Part.setAq]

@[simp] theorem setAq_station_other (p : Part) (i j : StationId) (f : Monitors → Monitors) (h : i ≠ j) :
    (p.setAq i f).station j = p.station j := by
  simp [Part.setAq, h]

/-! ### mark -/

@[simp] theorem mark_mem (p : Part) (i : StationId) (w : BitVec 64) : (p.mark i w).mem = p.mem := rfl
@[simp] theorem mark_inReset (p : Part) (i : StationId) (w : BitVec 64) : (p.mark i w).inReset = p.inReset := rfl
@[simp] theorem mark_rackTime (p : Part) (i : StationId) (w : BitVec 64) : (p.mark i w).rackTime = p.rackTime := rfl
@[simp] theorem mark_portData (p : Part) (i : StationId) (w : BitVec 64) : (p.mark i w).portData = p.portData := rfl
@[simp] theorem mark_freeCount (p : Part) (i : StationId) (w : BitVec 64) : (p.mark i w).freeCount = p.freeCount := rfl
@[simp] theorem mark_enabled (p : Part) (i : StationId) (w : BitVec 64) : (p.mark i w).enabled = p.enabled := rfl
@[simp] theorem mark_sweepRequested (p : Part) (i : StationId) (w : BitVec 64) : (p.mark i w).sweepRequested = p.sweepRequested := rfl
@[simp] theorem mark_sweepBase (p : Part) (i : StationId) (w : BitVec 64) : (p.mark i w).sweepBase = p.sweepBase := rfl
@[simp] theorem mark_attn (p : Part) (i : StationId) (w : BitVec 64) : (p.mark i w).attn = p.attn := rfl
@[simp] theorem mark_attnMask (p : Part) (i : StationId) (w : BitVec 64) : (p.mark i w).attnMask = p.attnMask := rfl
@[simp] theorem mark_attnPin (p : Part) (i : StationId) (w : BitVec 64) : (p.mark i w).attnPin = p.attnPin := rfl
@[simp] theorem mark_guardLog (p : Part) (i : StationId) (w : BitVec 64) : (p.mark i w).guardLog = p.guardLog := rfl
@[simp] theorem mark_config (p : Part) (i : StationId) (w : BitVec 64) : (p.mark i w).config = p.config := rfl
@[simp] theorem mark_conv (p : Part) (i : StationId) (w : BitVec 64) : (p.mark i w).conv = p.conv := rfl
@[simp] theorem mark_panel (p : Part) (i : StationId) (w : BitVec 64) : (p.mark i w).panel = p.panel := rfl
@[simp] theorem mark_stations (p : Part) (i : StationId) (w : BitVec 64) : (p.mark i w).stations = p.stations := rfl
@[simp] theorem mark_station (p : Part) (i : StationId) (w : BitVec 64) (j : StationId) :
    (p.mark i w).station j = p.station j := rfl
@[simp] theorem mark_touched (p : Part) (i : StationId) (w : BitVec 64) :
    (p.mark i w).touched = put p.touched i (p.touched[i] ||| w) := rfl

@[simp] theorem passing_mark (p : Part) (i : StationId) (f : Station → Station) :
    p.passing i f = p.mark i ((p.station i).marks (f (p.station i))) := rfl

/-! ### modify -/

@[simp] theorem modify_mem (p : Part) (i : StationId) (f : Station → Station) : (p.modify i f).mem = p.mem := rfl
@[simp] theorem modify_inReset (p : Part) (i : StationId) (f : Station → Station) : (p.modify i f).inReset = p.inReset := rfl
@[simp] theorem modify_rackTime (p : Part) (i : StationId) (f : Station → Station) : (p.modify i f).rackTime = p.rackTime := rfl
@[simp] theorem modify_portData (p : Part) (i : StationId) (f : Station → Station) : (p.modify i f).portData = p.portData := rfl
@[simp] theorem modify_freeCount (p : Part) (i : StationId) (f : Station → Station) : (p.modify i f).freeCount = p.freeCount := rfl
@[simp] theorem modify_enabled (p : Part) (i : StationId) (f : Station → Station) : (p.modify i f).enabled = p.enabled := rfl
@[simp] theorem modify_sweepRequested (p : Part) (i : StationId) (f : Station → Station) : (p.modify i f).sweepRequested = p.sweepRequested := rfl
@[simp] theorem modify_sweepBase (p : Part) (i : StationId) (f : Station → Station) : (p.modify i f).sweepBase = p.sweepBase := rfl
@[simp] theorem modify_attn (p : Part) (i : StationId) (f : Station → Station) : (p.modify i f).attn = p.attn := rfl
@[simp] theorem modify_attnMask (p : Part) (i : StationId) (f : Station → Station) : (p.modify i f).attnMask = p.attnMask := rfl
@[simp] theorem modify_attnPin (p : Part) (i : StationId) (f : Station → Station) : (p.modify i f).attnPin = p.attnPin := rfl
@[simp] theorem modify_guardLog (p : Part) (i : StationId) (f : Station → Station) : (p.modify i f).guardLog = p.guardLog := rfl
@[simp] theorem modify_config (p : Part) (i : StationId) (f : Station → Station) : (p.modify i f).config = p.config := rfl
@[simp] theorem modify_conv (p : Part) (i : StationId) (f : Station → Station) : (p.modify i f).conv = p.conv := rfl
@[simp] theorem modify_panel (p : Part) (i : StationId) (f : Station → Station) : (p.modify i f).panel = p.panel := rfl

/-! ### setWalker -/

@[simp] theorem setWalker_mem (p : Part) (i : StationId) (f : Walker → Walker) : (p.setWalker i f).mem = p.mem := rfl
@[simp] theorem setWalker_inReset (p : Part) (i : StationId) (f : Walker → Walker) : (p.setWalker i f).inReset = p.inReset := rfl
@[simp] theorem setWalker_rackTime (p : Part) (i : StationId) (f : Walker → Walker) : (p.setWalker i f).rackTime = p.rackTime := rfl
@[simp] theorem setWalker_portData (p : Part) (i : StationId) (f : Walker → Walker) : (p.setWalker i f).portData = p.portData := rfl
@[simp] theorem setWalker_freeCount (p : Part) (i : StationId) (f : Walker → Walker) : (p.setWalker i f).freeCount = p.freeCount := rfl
@[simp] theorem setWalker_enabled (p : Part) (i : StationId) (f : Walker → Walker) : (p.setWalker i f).enabled = p.enabled := rfl
@[simp] theorem setWalker_sweepRequested (p : Part) (i : StationId) (f : Walker → Walker) : (p.setWalker i f).sweepRequested = p.sweepRequested := rfl
@[simp] theorem setWalker_sweepBase (p : Part) (i : StationId) (f : Walker → Walker) : (p.setWalker i f).sweepBase = p.sweepBase := rfl
@[simp] theorem setWalker_attn (p : Part) (i : StationId) (f : Walker → Walker) : (p.setWalker i f).attn = p.attn := rfl
@[simp] theorem setWalker_attnMask (p : Part) (i : StationId) (f : Walker → Walker) : (p.setWalker i f).attnMask = p.attnMask := rfl
@[simp] theorem setWalker_attnPin (p : Part) (i : StationId) (f : Walker → Walker) : (p.setWalker i f).attnPin = p.attnPin := rfl
@[simp] theorem setWalker_guardLog (p : Part) (i : StationId) (f : Walker → Walker) : (p.setWalker i f).guardLog = p.guardLog := rfl
@[simp] theorem setWalker_config (p : Part) (i : StationId) (f : Walker → Walker) : (p.setWalker i f).config = p.config := rfl
@[simp] theorem setWalker_conv (p : Part) (i : StationId) (f : Walker → Walker) : (p.setWalker i f).conv = p.conv := rfl
@[simp] theorem setWalker_panel (p : Part) (i : StationId) (f : Walker → Walker) : (p.setWalker i f).panel = p.panel := rfl

/-! ### setFx -/

@[simp] theorem setFx_mem (p : Part) (i : StationId) (f : Fixture → Fixture) : (p.setFx i f).mem = p.mem := rfl
@[simp] theorem setFx_inReset (p : Part) (i : StationId) (f : Fixture → Fixture) : (p.setFx i f).inReset = p.inReset := rfl
@[simp] theorem setFx_rackTime (p : Part) (i : StationId) (f : Fixture → Fixture) : (p.setFx i f).rackTime = p.rackTime := rfl
@[simp] theorem setFx_portData (p : Part) (i : StationId) (f : Fixture → Fixture) : (p.setFx i f).portData = p.portData := rfl
@[simp] theorem setFx_freeCount (p : Part) (i : StationId) (f : Fixture → Fixture) : (p.setFx i f).freeCount = p.freeCount := rfl
@[simp] theorem setFx_enabled (p : Part) (i : StationId) (f : Fixture → Fixture) : (p.setFx i f).enabled = p.enabled := rfl
@[simp] theorem setFx_sweepRequested (p : Part) (i : StationId) (f : Fixture → Fixture) : (p.setFx i f).sweepRequested = p.sweepRequested := rfl
@[simp] theorem setFx_sweepBase (p : Part) (i : StationId) (f : Fixture → Fixture) : (p.setFx i f).sweepBase = p.sweepBase := rfl
@[simp] theorem setFx_attn (p : Part) (i : StationId) (f : Fixture → Fixture) : (p.setFx i f).attn = p.attn := rfl
@[simp] theorem setFx_attnMask (p : Part) (i : StationId) (f : Fixture → Fixture) : (p.setFx i f).attnMask = p.attnMask := rfl
@[simp] theorem setFx_attnPin (p : Part) (i : StationId) (f : Fixture → Fixture) : (p.setFx i f).attnPin = p.attnPin := rfl
@[simp] theorem setFx_guardLog (p : Part) (i : StationId) (f : Fixture → Fixture) : (p.setFx i f).guardLog = p.guardLog := rfl
@[simp] theorem setFx_config (p : Part) (i : StationId) (f : Fixture → Fixture) : (p.setFx i f).config = p.config := rfl
@[simp] theorem setFx_conv (p : Part) (i : StationId) (f : Fixture → Fixture) : (p.setFx i f).conv = p.conv := rfl
@[simp] theorem setFx_panel (p : Part) (i : StationId) (f : Fixture → Fixture) : (p.setFx i f).panel = p.panel := rfl

/-! ### setPs -/

@[simp] theorem setPs_mem (p : Part) (i : StationId) (f : Supply → Supply) : (p.setPs i f).mem = p.mem := rfl
@[simp] theorem setPs_inReset (p : Part) (i : StationId) (f : Supply → Supply) : (p.setPs i f).inReset = p.inReset := rfl
@[simp] theorem setPs_rackTime (p : Part) (i : StationId) (f : Supply → Supply) : (p.setPs i f).rackTime = p.rackTime := rfl
@[simp] theorem setPs_portData (p : Part) (i : StationId) (f : Supply → Supply) : (p.setPs i f).portData = p.portData := rfl
@[simp] theorem setPs_freeCount (p : Part) (i : StationId) (f : Supply → Supply) : (p.setPs i f).freeCount = p.freeCount := rfl
@[simp] theorem setPs_enabled (p : Part) (i : StationId) (f : Supply → Supply) : (p.setPs i f).enabled = p.enabled := rfl
@[simp] theorem setPs_sweepRequested (p : Part) (i : StationId) (f : Supply → Supply) : (p.setPs i f).sweepRequested = p.sweepRequested := rfl
@[simp] theorem setPs_sweepBase (p : Part) (i : StationId) (f : Supply → Supply) : (p.setPs i f).sweepBase = p.sweepBase := rfl
@[simp] theorem setPs_attn (p : Part) (i : StationId) (f : Supply → Supply) : (p.setPs i f).attn = p.attn := rfl
@[simp] theorem setPs_attnMask (p : Part) (i : StationId) (f : Supply → Supply) : (p.setPs i f).attnMask = p.attnMask := rfl
@[simp] theorem setPs_attnPin (p : Part) (i : StationId) (f : Supply → Supply) : (p.setPs i f).attnPin = p.attnPin := rfl
@[simp] theorem setPs_guardLog (p : Part) (i : StationId) (f : Supply → Supply) : (p.setPs i f).guardLog = p.guardLog := rfl
@[simp] theorem setPs_config (p : Part) (i : StationId) (f : Supply → Supply) : (p.setPs i f).config = p.config := rfl
@[simp] theorem setPs_conv (p : Part) (i : StationId) (f : Supply → Supply) : (p.setPs i f).conv = p.conv := rfl
@[simp] theorem setPs_panel (p : Part) (i : StationId) (f : Supply → Supply) : (p.setPs i f).panel = p.panel := rfl

/-! ### setSt -/

@[simp] theorem setSt_mem (p : Part) (i : StationId) (f : Stimulus → Stimulus) : (p.setSt i f).mem = p.mem := rfl
@[simp] theorem setSt_inReset (p : Part) (i : StationId) (f : Stimulus → Stimulus) : (p.setSt i f).inReset = p.inReset := rfl
@[simp] theorem setSt_rackTime (p : Part) (i : StationId) (f : Stimulus → Stimulus) : (p.setSt i f).rackTime = p.rackTime := rfl
@[simp] theorem setSt_portData (p : Part) (i : StationId) (f : Stimulus → Stimulus) : (p.setSt i f).portData = p.portData := rfl
@[simp] theorem setSt_freeCount (p : Part) (i : StationId) (f : Stimulus → Stimulus) : (p.setSt i f).freeCount = p.freeCount := rfl
@[simp] theorem setSt_enabled (p : Part) (i : StationId) (f : Stimulus → Stimulus) : (p.setSt i f).enabled = p.enabled := rfl
@[simp] theorem setSt_sweepRequested (p : Part) (i : StationId) (f : Stimulus → Stimulus) : (p.setSt i f).sweepRequested = p.sweepRequested := rfl
@[simp] theorem setSt_sweepBase (p : Part) (i : StationId) (f : Stimulus → Stimulus) : (p.setSt i f).sweepBase = p.sweepBase := rfl
@[simp] theorem setSt_attn (p : Part) (i : StationId) (f : Stimulus → Stimulus) : (p.setSt i f).attn = p.attn := rfl
@[simp] theorem setSt_attnMask (p : Part) (i : StationId) (f : Stimulus → Stimulus) : (p.setSt i f).attnMask = p.attnMask := rfl
@[simp] theorem setSt_attnPin (p : Part) (i : StationId) (f : Stimulus → Stimulus) : (p.setSt i f).attnPin = p.attnPin := rfl
@[simp] theorem setSt_guardLog (p : Part) (i : StationId) (f : Stimulus → Stimulus) : (p.setSt i f).guardLog = p.guardLog := rfl
@[simp] theorem setSt_config (p : Part) (i : StationId) (f : Stimulus → Stimulus) : (p.setSt i f).config = p.config := rfl
@[simp] theorem setSt_conv (p : Part) (i : StationId) (f : Stimulus → Stimulus) : (p.setSt i f).conv = p.conv := rfl
@[simp] theorem setSt_panel (p : Part) (i : StationId) (f : Stimulus → Stimulus) : (p.setSt i f).panel = p.panel := rfl

/-! ### setLc -/

@[simp] theorem setLc_mem (p : Part) (i : StationId) (f : Line → Line) : (p.setLc i f).mem = p.mem := rfl
@[simp] theorem setLc_inReset (p : Part) (i : StationId) (f : Line → Line) : (p.setLc i f).inReset = p.inReset := rfl
@[simp] theorem setLc_rackTime (p : Part) (i : StationId) (f : Line → Line) : (p.setLc i f).rackTime = p.rackTime := rfl
@[simp] theorem setLc_portData (p : Part) (i : StationId) (f : Line → Line) : (p.setLc i f).portData = p.portData := rfl
@[simp] theorem setLc_freeCount (p : Part) (i : StationId) (f : Line → Line) : (p.setLc i f).freeCount = p.freeCount := rfl
@[simp] theorem setLc_enabled (p : Part) (i : StationId) (f : Line → Line) : (p.setLc i f).enabled = p.enabled := rfl
@[simp] theorem setLc_sweepRequested (p : Part) (i : StationId) (f : Line → Line) : (p.setLc i f).sweepRequested = p.sweepRequested := rfl
@[simp] theorem setLc_sweepBase (p : Part) (i : StationId) (f : Line → Line) : (p.setLc i f).sweepBase = p.sweepBase := rfl
@[simp] theorem setLc_attn (p : Part) (i : StationId) (f : Line → Line) : (p.setLc i f).attn = p.attn := rfl
@[simp] theorem setLc_attnMask (p : Part) (i : StationId) (f : Line → Line) : (p.setLc i f).attnMask = p.attnMask := rfl
@[simp] theorem setLc_attnPin (p : Part) (i : StationId) (f : Line → Line) : (p.setLc i f).attnPin = p.attnPin := rfl
@[simp] theorem setLc_guardLog (p : Part) (i : StationId) (f : Line → Line) : (p.setLc i f).guardLog = p.guardLog := rfl
@[simp] theorem setLc_config (p : Part) (i : StationId) (f : Line → Line) : (p.setLc i f).config = p.config := rfl
@[simp] theorem setLc_conv (p : Part) (i : StationId) (f : Line → Line) : (p.setLc i f).conv = p.conv := rfl
@[simp] theorem setLc_panel (p : Part) (i : StationId) (f : Line → Line) : (p.setLc i f).panel = p.panel := rfl

/-! ### setAq -/

@[simp] theorem setAq_mem (p : Part) (i : StationId) (f : Monitors → Monitors) : (p.setAq i f).mem = p.mem := rfl
@[simp] theorem setAq_inReset (p : Part) (i : StationId) (f : Monitors → Monitors) : (p.setAq i f).inReset = p.inReset := rfl
@[simp] theorem setAq_rackTime (p : Part) (i : StationId) (f : Monitors → Monitors) : (p.setAq i f).rackTime = p.rackTime := rfl
@[simp] theorem setAq_portData (p : Part) (i : StationId) (f : Monitors → Monitors) : (p.setAq i f).portData = p.portData := rfl
@[simp] theorem setAq_freeCount (p : Part) (i : StationId) (f : Monitors → Monitors) : (p.setAq i f).freeCount = p.freeCount := rfl
@[simp] theorem setAq_enabled (p : Part) (i : StationId) (f : Monitors → Monitors) : (p.setAq i f).enabled = p.enabled := rfl
@[simp] theorem setAq_sweepRequested (p : Part) (i : StationId) (f : Monitors → Monitors) : (p.setAq i f).sweepRequested = p.sweepRequested := rfl
@[simp] theorem setAq_sweepBase (p : Part) (i : StationId) (f : Monitors → Monitors) : (p.setAq i f).sweepBase = p.sweepBase := rfl
@[simp] theorem setAq_attn (p : Part) (i : StationId) (f : Monitors → Monitors) : (p.setAq i f).attn = p.attn := rfl
@[simp] theorem setAq_attnMask (p : Part) (i : StationId) (f : Monitors → Monitors) : (p.setAq i f).attnMask = p.attnMask := rfl
@[simp] theorem setAq_attnPin (p : Part) (i : StationId) (f : Monitors → Monitors) : (p.setAq i f).attnPin = p.attnPin := rfl
@[simp] theorem setAq_guardLog (p : Part) (i : StationId) (f : Monitors → Monitors) : (p.setAq i f).guardLog = p.guardLog := rfl
@[simp] theorem setAq_config (p : Part) (i : StationId) (f : Monitors → Monitors) : (p.setAq i f).config = p.config := rfl
@[simp] theorem setAq_conv (p : Part) (i : StationId) (f : Monitors → Monitors) : (p.setAq i f).conv = p.conv := rfl
@[simp] theorem setAq_panel (p : Part) (i : StationId) (f : Monitors → Monitors) : (p.setAq i f).panel = p.panel := rfl

/-! ### setPanel -/

@[simp] theorem setPanel_mem (p : Part) (f : Panel → Panel) : (p.setPanel f).mem = p.mem := rfl
@[simp] theorem setPanel_inReset (p : Part) (f : Panel → Panel) : (p.setPanel f).inReset = p.inReset := rfl
@[simp] theorem setPanel_rackTime (p : Part) (f : Panel → Panel) : (p.setPanel f).rackTime = p.rackTime := rfl
@[simp] theorem setPanel_portData (p : Part) (f : Panel → Panel) : (p.setPanel f).portData = p.portData := rfl
@[simp] theorem setPanel_freeCount (p : Part) (f : Panel → Panel) : (p.setPanel f).freeCount = p.freeCount := rfl
@[simp] theorem setPanel_enabled (p : Part) (f : Panel → Panel) : (p.setPanel f).enabled = p.enabled := rfl
@[simp] theorem setPanel_sweepRequested (p : Part) (f : Panel → Panel) : (p.setPanel f).sweepRequested = p.sweepRequested := rfl
@[simp] theorem setPanel_sweepBase (p : Part) (f : Panel → Panel) : (p.setPanel f).sweepBase = p.sweepBase := rfl
@[simp] theorem setPanel_attn (p : Part) (f : Panel → Panel) : (p.setPanel f).attn = p.attn := rfl
@[simp] theorem setPanel_attnMask (p : Part) (f : Panel → Panel) : (p.setPanel f).attnMask = p.attnMask := rfl
@[simp] theorem setPanel_attnPin (p : Part) (f : Panel → Panel) : (p.setPanel f).attnPin = p.attnPin := rfl
@[simp] theorem setPanel_guardLog (p : Part) (f : Panel → Panel) : (p.setPanel f).guardLog = p.guardLog := rfl
@[simp] theorem setPanel_config (p : Part) (f : Panel → Panel) : (p.setPanel f).config = p.config := rfl
@[simp] theorem setPanel_conv (p : Part) (f : Panel → Panel) : (p.setPanel f).conv = p.conv := rfl
@[simp] theorem setPanel_touched (p : Part) (f : Panel → Panel) : (p.setPanel f).touched = p.touched := rfl
@[simp] theorem setPanel_stations (p : Part) (f : Panel → Panel) : (p.setPanel f).stations = p.stations := rfl
@[simp] theorem setPanel_station (p : Part) (f : Panel → Panel) (j : StationId) :
    (p.setPanel f).station j = p.station j := rfl

/-! ### setConv -/

@[simp] theorem setConv_mem (p : Part) (f : Converter → Converter) : (p.setConv f).mem = p.mem := rfl
@[simp] theorem setConv_inReset (p : Part) (f : Converter → Converter) : (p.setConv f).inReset = p.inReset := rfl
@[simp] theorem setConv_rackTime (p : Part) (f : Converter → Converter) : (p.setConv f).rackTime = p.rackTime := rfl
@[simp] theorem setConv_portData (p : Part) (f : Converter → Converter) : (p.setConv f).portData = p.portData := rfl
@[simp] theorem setConv_freeCount (p : Part) (f : Converter → Converter) : (p.setConv f).freeCount = p.freeCount := rfl
@[simp] theorem setConv_enabled (p : Part) (f : Converter → Converter) : (p.setConv f).enabled = p.enabled := rfl
@[simp] theorem setConv_sweepRequested (p : Part) (f : Converter → Converter) : (p.setConv f).sweepRequested = p.sweepRequested := rfl
@[simp] theorem setConv_sweepBase (p : Part) (f : Converter → Converter) : (p.setConv f).sweepBase = p.sweepBase := rfl
@[simp] theorem setConv_attn (p : Part) (f : Converter → Converter) : (p.setConv f).attn = p.attn := rfl
@[simp] theorem setConv_attnMask (p : Part) (f : Converter → Converter) : (p.setConv f).attnMask = p.attnMask := rfl
@[simp] theorem setConv_attnPin (p : Part) (f : Converter → Converter) : (p.setConv f).attnPin = p.attnPin := rfl
@[simp] theorem setConv_guardLog (p : Part) (f : Converter → Converter) : (p.setConv f).guardLog = p.guardLog := rfl
@[simp] theorem setConv_config (p : Part) (f : Converter → Converter) : (p.setConv f).config = p.config := rfl
@[simp] theorem setConv_panel (p : Part) (f : Converter → Converter) : (p.setConv f).panel = p.panel := rfl
@[simp] theorem setConv_touched (p : Part) (f : Converter → Converter) : (p.setConv f).touched = p.touched := rfl
@[simp] theorem setConv_stations (p : Part) (f : Converter → Converter) : (p.setConv f).stations = p.stations := rfl
@[simp] theorem setConv_station (p : Part) (f : Converter → Converter) (j : StationId) :
    (p.setConv f).station j = p.station j := rfl

/-! ### raise -/

@[simp] theorem raise_mem (p : Part) (c : Cause) : (p.raise c).mem = p.mem := rfl
@[simp] theorem raise_inReset (p : Part) (c : Cause) : (p.raise c).inReset = p.inReset := rfl
@[simp] theorem raise_rackTime (p : Part) (c : Cause) : (p.raise c).rackTime = p.rackTime := rfl
@[simp] theorem raise_portData (p : Part) (c : Cause) : (p.raise c).portData = p.portData := rfl
@[simp] theorem raise_freeCount (p : Part) (c : Cause) : (p.raise c).freeCount = p.freeCount := rfl
@[simp] theorem raise_enabled (p : Part) (c : Cause) : (p.raise c).enabled = p.enabled := rfl
@[simp] theorem raise_sweepRequested (p : Part) (c : Cause) : (p.raise c).sweepRequested = p.sweepRequested := rfl
@[simp] theorem raise_sweepBase (p : Part) (c : Cause) : (p.raise c).sweepBase = p.sweepBase := rfl
@[simp] theorem raise_attnMask (p : Part) (c : Cause) : (p.raise c).attnMask = p.attnMask := rfl
@[simp] theorem raise_attnPin (p : Part) (c : Cause) : (p.raise c).attnPin = p.attnPin := rfl
@[simp] theorem raise_guardLog (p : Part) (c : Cause) : (p.raise c).guardLog = p.guardLog := rfl
@[simp] theorem raise_config (p : Part) (c : Cause) : (p.raise c).config = p.config := rfl
@[simp] theorem raise_conv (p : Part) (c : Cause) : (p.raise c).conv = p.conv := rfl
@[simp] theorem raise_panel (p : Part) (c : Cause) : (p.raise c).panel = p.panel := rfl
@[simp] theorem raise_touched (p : Part) (c : Cause) : (p.raise c).touched = p.touched := rfl
@[simp] theorem raise_stations (p : Part) (c : Cause) : (p.raise c).stations = p.stations := rfl
@[simp] theorem raise_station (p : Part) (c : Cause) (j : StationId) :
    (p.raise c).station j = p.station j := rfl

/-! ### poke8 -/

@[simp] theorem poke8_inReset (p : Part) (x : Nat) (v : Byte) : (p.poke8 x v).inReset = p.inReset := rfl
@[simp] theorem poke8_rackTime (p : Part) (x : Nat) (v : Byte) : (p.poke8 x v).rackTime = p.rackTime := rfl
@[simp] theorem poke8_portData (p : Part) (x : Nat) (v : Byte) : (p.poke8 x v).portData = p.portData := rfl
@[simp] theorem poke8_freeCount (p : Part) (x : Nat) (v : Byte) : (p.poke8 x v).freeCount = p.freeCount := rfl
@[simp] theorem poke8_enabled (p : Part) (x : Nat) (v : Byte) : (p.poke8 x v).enabled = p.enabled := rfl
@[simp] theorem poke8_sweepRequested (p : Part) (x : Nat) (v : Byte) : (p.poke8 x v).sweepRequested = p.sweepRequested := rfl
@[simp] theorem poke8_sweepBase (p : Part) (x : Nat) (v : Byte) : (p.poke8 x v).sweepBase = p.sweepBase := rfl
@[simp] theorem poke8_attn (p : Part) (x : Nat) (v : Byte) : (p.poke8 x v).attn = p.attn := rfl
@[simp] theorem poke8_attnMask (p : Part) (x : Nat) (v : Byte) : (p.poke8 x v).attnMask = p.attnMask := rfl
@[simp] theorem poke8_attnPin (p : Part) (x : Nat) (v : Byte) : (p.poke8 x v).attnPin = p.attnPin := rfl
@[simp] theorem poke8_guardLog (p : Part) (x : Nat) (v : Byte) : (p.poke8 x v).guardLog = p.guardLog := rfl
@[simp] theorem poke8_config (p : Part) (x : Nat) (v : Byte) : (p.poke8 x v).config = p.config := rfl
@[simp] theorem poke8_conv (p : Part) (x : Nat) (v : Byte) : (p.poke8 x v).conv = p.conv := rfl
@[simp] theorem poke8_panel (p : Part) (x : Nat) (v : Byte) : (p.poke8 x v).panel = p.panel := rfl
@[simp] theorem poke8_touched (p : Part) (x : Nat) (v : Byte) : (p.poke8 x v).touched = p.touched := rfl
@[simp] theorem poke8_stations (p : Part) (x : Nat) (v : Byte) : (p.poke8 x v).stations = p.stations := rfl
@[simp] theorem poke8_station (p : Part) (x : Nat) (v : Byte) (j : StationId) :
    (p.poke8 x v).station j = p.station j := rfl

/-! ### poke16 -/

@[simp] theorem poke16_inReset (p : Part) (x v : Nat) : (p.poke16 x v).inReset = p.inReset := rfl
@[simp] theorem poke16_rackTime (p : Part) (x v : Nat) : (p.poke16 x v).rackTime = p.rackTime := rfl
@[simp] theorem poke16_portData (p : Part) (x v : Nat) : (p.poke16 x v).portData = p.portData := rfl
@[simp] theorem poke16_freeCount (p : Part) (x v : Nat) : (p.poke16 x v).freeCount = p.freeCount := rfl
@[simp] theorem poke16_enabled (p : Part) (x v : Nat) : (p.poke16 x v).enabled = p.enabled := rfl
@[simp] theorem poke16_sweepRequested (p : Part) (x v : Nat) : (p.poke16 x v).sweepRequested = p.sweepRequested := rfl
@[simp] theorem poke16_sweepBase (p : Part) (x v : Nat) : (p.poke16 x v).sweepBase = p.sweepBase := rfl
@[simp] theorem poke16_attn (p : Part) (x v : Nat) : (p.poke16 x v).attn = p.attn := rfl
@[simp] theorem poke16_attnMask (p : Part) (x v : Nat) : (p.poke16 x v).attnMask = p.attnMask := rfl
@[simp] theorem poke16_attnPin (p : Part) (x v : Nat) : (p.poke16 x v).attnPin = p.attnPin := rfl
@[simp] theorem poke16_guardLog (p : Part) (x v : Nat) : (p.poke16 x v).guardLog = p.guardLog := rfl
@[simp] theorem poke16_config (p : Part) (x v : Nat) : (p.poke16 x v).config = p.config := rfl
@[simp] theorem poke16_conv (p : Part) (x v : Nat) : (p.poke16 x v).conv = p.conv := rfl
@[simp] theorem poke16_panel (p : Part) (x v : Nat) : (p.poke16 x v).panel = p.panel := rfl
@[simp] theorem poke16_touched (p : Part) (x v : Nat) : (p.poke16 x v).touched = p.touched := rfl
@[simp] theorem poke16_stations (p : Part) (x v : Nat) : (p.poke16 x v).stations = p.stations := rfl
@[simp] theorem poke16_station (p : Part) (x v : Nat) (j : StationId) :
    (p.poke16 x v).station j = p.station j := rfl

/-! ### poke32 -/

@[simp] theorem poke32_inReset (p : Part) (x v : Nat) : (p.poke32 x v).inReset = p.inReset := rfl
@[simp] theorem poke32_rackTime (p : Part) (x v : Nat) : (p.poke32 x v).rackTime = p.rackTime := rfl
@[simp] theorem poke32_portData (p : Part) (x v : Nat) : (p.poke32 x v).portData = p.portData := rfl
@[simp] theorem poke32_freeCount (p : Part) (x v : Nat) : (p.poke32 x v).freeCount = p.freeCount := rfl
@[simp] theorem poke32_enabled (p : Part) (x v : Nat) : (p.poke32 x v).enabled = p.enabled := rfl
@[simp] theorem poke32_sweepRequested (p : Part) (x v : Nat) : (p.poke32 x v).sweepRequested = p.sweepRequested := rfl
@[simp] theorem poke32_sweepBase (p : Part) (x v : Nat) : (p.poke32 x v).sweepBase = p.sweepBase := rfl
@[simp] theorem poke32_attn (p : Part) (x v : Nat) : (p.poke32 x v).attn = p.attn := rfl
@[simp] theorem poke32_attnMask (p : Part) (x v : Nat) : (p.poke32 x v).attnMask = p.attnMask := rfl
@[simp] theorem poke32_attnPin (p : Part) (x v : Nat) : (p.poke32 x v).attnPin = p.attnPin := rfl
@[simp] theorem poke32_guardLog (p : Part) (x v : Nat) : (p.poke32 x v).guardLog = p.guardLog := rfl
@[simp] theorem poke32_config (p : Part) (x v : Nat) : (p.poke32 x v).config = p.config := rfl
@[simp] theorem poke32_conv (p : Part) (x v : Nat) : (p.poke32 x v).conv = p.conv := rfl
@[simp] theorem poke32_panel (p : Part) (x v : Nat) : (p.poke32 x v).panel = p.panel := rfl
@[simp] theorem poke32_touched (p : Part) (x v : Nat) : (p.poke32 x v).touched = p.touched := rfl
@[simp] theorem poke32_stations (p : Part) (x v : Nat) : (p.poke32 x v).stations = p.stations := rfl
@[simp] theorem poke32_station (p : Part) (x v : Nat) (j : StationId) :
    (p.poke32 x v).station j = p.station j := rfl

/-! ### setCellState -/

@[simp] theorem setCellState_inReset (p : Part) (i : StationId) (c : CellId) (code : Byte) : (p.setCellState i c code).inReset = p.inReset := rfl
@[simp] theorem setCellState_rackTime (p : Part) (i : StationId) (c : CellId) (code : Byte) : (p.setCellState i c code).rackTime = p.rackTime := rfl
@[simp] theorem setCellState_portData (p : Part) (i : StationId) (c : CellId) (code : Byte) : (p.setCellState i c code).portData = p.portData := rfl
@[simp] theorem setCellState_freeCount (p : Part) (i : StationId) (c : CellId) (code : Byte) : (p.setCellState i c code).freeCount = p.freeCount := rfl
@[simp] theorem setCellState_enabled (p : Part) (i : StationId) (c : CellId) (code : Byte) : (p.setCellState i c code).enabled = p.enabled := rfl
@[simp] theorem setCellState_sweepRequested (p : Part) (i : StationId) (c : CellId) (code : Byte) : (p.setCellState i c code).sweepRequested = p.sweepRequested := rfl
@[simp] theorem setCellState_sweepBase (p : Part) (i : StationId) (c : CellId) (code : Byte) : (p.setCellState i c code).sweepBase = p.sweepBase := rfl
@[simp] theorem setCellState_attn (p : Part) (i : StationId) (c : CellId) (code : Byte) : (p.setCellState i c code).attn = p.attn := rfl
@[simp] theorem setCellState_attnMask (p : Part) (i : StationId) (c : CellId) (code : Byte) : (p.setCellState i c code).attnMask = p.attnMask := rfl
@[simp] theorem setCellState_attnPin (p : Part) (i : StationId) (c : CellId) (code : Byte) : (p.setCellState i c code).attnPin = p.attnPin := rfl
@[simp] theorem setCellState_guardLog (p : Part) (i : StationId) (c : CellId) (code : Byte) : (p.setCellState i c code).guardLog = p.guardLog := rfl
@[simp] theorem setCellState_config (p : Part) (i : StationId) (c : CellId) (code : Byte) : (p.setCellState i c code).config = p.config := rfl
@[simp] theorem setCellState_conv (p : Part) (i : StationId) (c : CellId) (code : Byte) : (p.setCellState i c code).conv = p.conv := rfl
@[simp] theorem setCellState_panel (p : Part) (i : StationId) (c : CellId) (code : Byte) : (p.setCellState i c code).panel = p.panel := rfl
@[simp] theorem setCellState_touched (p : Part) (i : StationId) (c : CellId) (code : Byte) : (p.setCellState i c code).touched = p.touched := rfl
@[simp] theorem setCellState_stations (p : Part) (i : StationId) (c : CellId) (code : Byte) : (p.setCellState i c code).stations = p.stations := rfl
@[simp] theorem setCellState_station (p : Part) (i : StationId) (c : CellId) (code : Byte) (j : StationId) :
    (p.setCellState i c code).station j = p.station j := rfl

@[simp] theorem setPanel_panel (p : Part) (f : Panel → Panel) : (p.setPanel f).panel = f p.panel := rfl
@[simp] theorem setConv_conv (p : Part) (f : Converter → Converter) : (p.setConv f).conv = f p.conv := rfl
@[simp] theorem raise_attn (p : Part) (c : Cause) : (p.raise c).attn = p.attn ||| (1#22 <<< c.bit) := rfl
@[simp] theorem poke8_mem (p : Part) (x : Nat) (v : Byte) : (p.poke8 x v).mem = p.mem.write x v := rfl
@[simp] theorem poke16_mem (p : Part) (x v : Nat) : (p.poke16 x v).mem = p.mem.writeLE x 2 v := rfl
@[simp] theorem poke32_mem (p : Part) (x v : Nat) : (p.poke32 x v).mem = p.mem.writeLE x 4 v := rfl
@[simp] theorem setCellState_mem (p : Part) (i : StationId) (c : CellId) (code : Byte) :
    (p.setCellState i c code).mem = p.mem.write (Config.cell i c) code := rfl

/-! ### Fixture debouncers -/

@[simp] theorem takeInput_levels (f : Fixture) (k : FixtureInput) : (f.takeInput k).levels = f.levels.flip k := rfl
@[simp] theorem takeInput_raw (f : Fixture) (k : FixtureInput) :
    (f.takeInput k).raw = put f.raw (inputNumber k) 0 := rfl
@[simp] theorem takeInput_state (f : Fixture) (k : FixtureInput) : (f.takeInput k).state = f.state := rfl
@[simp] theorem takeInput_code (f : Fixture) (k : FixtureInput) : (f.takeInput k).code = f.code := rfl
@[simp] theorem takeInput_drive (f : Fixture) (k : FixtureInput) : (f.takeInput k).drive = f.drive := rfl
@[simp] theorem takeInput_captured (f : Fixture) (k : FixtureInput) : (f.takeInput k).captured = f.captured := rfl
@[simp] theorem takeInput_driveLawful (f : Fixture) (k : FixtureInput) :
    (f.takeInput k).driveLawful = f.driveLawful := rfl

@[simp] theorem takeCode_code (f : Fixture) (c : BitVec 6) : (f.takeCode c).code = c := rfl
@[simp] theorem takeCode_codeCount (f : Fixture) (c : BitVec 6) : (f.takeCode c).codeCount = 0 := rfl
@[simp] theorem takeCode_levels (f : Fixture) (c : BitVec 6) : (f.takeCode c).levels = f.levels := rfl
@[simp] theorem takeCode_state (f : Fixture) (c : BitVec 6) : (f.takeCode c).state = f.state := rfl
@[simp] theorem takeCode_driveLawful (f : Fixture) (c : BitVec 6) : (f.takeCode c).driveLawful = f.driveLawful := rfl

@[simp] theorem countRaw_levels (f : Fixture) (n : Nat) (r : FixtureRaw) : (f.countRaw n r).levels = f.levels := rfl
@[simp] theorem countRaw_code (f : Fixture) (n : Nat) (r : FixtureRaw) : (f.countRaw n r).code = f.code := rfl
@[simp] theorem countRaw_state (f : Fixture) (n : Nat) (r : FixtureRaw) : (f.countRaw n r).state = f.state := rfl
@[simp] theorem countRaw_drive (f : Fixture) (n : Nat) (r : FixtureRaw) : (f.countRaw n r).drive = f.drive := rfl
@[simp] theorem countRaw_driveLawful (f : Fixture) (n : Nat) (r : FixtureRaw) :
    (f.countRaw n r).driveLawful = f.driveLawful := rfl
@[simp] theorem countHeld_none (n v : Nat) (anew : Bool) : countHeld n false anew v = 0 := rfl
@[simp] theorem countHeld_anew (n v : Nat) : countHeld n true true v = 1 := rfl
@[simp] theorem countHeld_on (n v : Nat) : countHeld n true false v = countUp n v := rfl

@[simp] theorem countRaw_raw (f : Fixture) (n : Nat) (r : FixtureRaw) (k : Fin 6) :
    (f.countRaw n r).raw[k.val] = rawCount r.inputs n k f.raw[k] := by
  simp [Fixture.countRaw]

/-! ### settle and commit -/

@[simp] theorem settle_mem (p : Part) : p.settle.mem = p.mem := rfl
@[simp] theorem settle_inReset (p : Part) : p.settle.inReset = p.inReset := rfl
@[simp] theorem settle_rackTime (p : Part) : p.settle.rackTime = p.rackTime := rfl
@[simp] theorem settle_portData (p : Part) : p.settle.portData = p.portData := rfl
@[simp] theorem settle_freeCount (p : Part) : p.settle.freeCount = p.freeCount := rfl
@[simp] theorem settle_enabled (p : Part) : p.settle.enabled = p.enabled := rfl
@[simp] theorem settle_sweepRequested (p : Part) : p.settle.sweepRequested = p.sweepRequested := rfl
@[simp] theorem settle_sweepBase (p : Part) : p.settle.sweepBase = p.sweepBase := rfl
@[simp] theorem settle_attn (p : Part) : p.settle.attn = p.attn := rfl
@[simp] theorem settle_attnMask (p : Part) : p.settle.attnMask = p.attnMask := rfl
@[simp] theorem settle_guardLog (p : Part) : p.settle.guardLog = p.guardLog := rfl
@[simp] theorem settle_config (p : Part) : p.settle.config = p.config := rfl
@[simp] theorem settle_conv (p : Part) : p.settle.conv = p.conv := rfl
@[simp] theorem settle_touched (p : Part) : (p.settle).touched = p.touched := rfl
@[simp] theorem settle_stations (p : Part) : p.settle.stations = p.stations := rfl
@[simp] theorem settle_station (p : Part) (i : StationId) : p.settle.station i = p.station i := rfl
@[simp] theorem settle_attnPin (p : Part) : p.settle.attnPin = pinAsserted p.attn p.attnMask := rfl
@[simp] theorem settle_lamps (p : Part) : p.settle.panel.lamps = p.lampsNow := rfl

@[simp] theorem commit_inReset (p q : Part) : (Part.commit p q).inReset = q.inReset := rfl
@[simp] theorem commit_rackTime (p q : Part) : (Part.commit p q).rackTime = q.rackTime := rfl
@[simp] theorem commit_portData (p q : Part) : (Part.commit p q).portData = q.portData := rfl
@[simp] theorem commit_freeCount (p q : Part) : (Part.commit p q).freeCount = q.freeCount := rfl
@[simp] theorem commit_enabled (p q : Part) : (Part.commit p q).enabled = q.enabled := rfl
@[simp] theorem commit_sweepRequested (p q : Part) : (Part.commit p q).sweepRequested = q.sweepRequested := rfl
@[simp] theorem commit_sweepBase (p q : Part) : (Part.commit p q).sweepBase = q.sweepBase := rfl
@[simp] theorem commit_attn (p q : Part) : (Part.commit p q).attn = q.attn := rfl
@[simp] theorem commit_attnMask (p q : Part) : (Part.commit p q).attnMask = q.attnMask := rfl
@[simp] theorem commit_guardLog (p q : Part) : (Part.commit p q).guardLog = q.guardLog := rfl
@[simp] theorem commit_config (p q : Part) : (Part.commit p q).config = q.config := rfl
@[simp] theorem commit_conv (p q : Part) : (Part.commit p q).conv = q.conv := rfl
@[simp] theorem commit_stations (p q : Part) : (Part.commit p q).stations = q.stations := rfl
@[simp] theorem commit_touched (p q : Part) : (Part.commit p q).touched = p.touched := rfl
@[simp] theorem commit_station (p q : Part) (i : StationId) :
    (Part.commit p q).station i = q.station i := rfl

end Sys2Proof.Machine
end

