-- ==== Sys2Proof/Laws/Blocks.lean ====
section
/-! SUPPORT. What the shared operations of the blocks can do: events, the panel's operations, the writing of
results and the ends of a step. -/

namespace Sys2Proof.Machine

/-! ### Events -/

theorem publish_same (m : Memory) (i : StationId) (x : Station) : m.publish i x x 0 = m := by
  unfold Memory.publish
  rw [dueWords_same]
  split <;> rfl

/-- An event that leaves the marks as they were has marked nothing. -/
theorem marked_same (p q : Part) (i : StationId) (h : q.touched = p.touched) : Part.marked p q i = 0 := by
  simp [Part.marked, h]

/-- An event that leaves every station column, and marks nothing, writes nothing to the headers. -/
theorem commit_same (p q : Part) (h : q.stations = p.stations) (ht : q.touched = p.touched) :
    Part.commit p q = q.settle := by
  have e : ∀ i, q.station i = p.station i := fun i => by rw [Part.station, Part.station, h]
  have m : ∀ i, Part.marked p q i = 0 := fun i => marked_same p q i ht
  simp only [Part.commit, stationIds, List.foldl, e, m, publish_same, ← ht]

/-- The header words of a station stand at these offsets, whatever the column holds. -/
theorem header_offsets (x : Station) :
    x.header.map Prod.fst = ((List.range 63).filter (· ≠ 31)).map (4 * ·) := rfl

theorem wordMark_bit (x k : Nat) (hk : k < 64) : (wordMark x).getLsbD k = decide (x / 4 = k) := by
  by_cases h : x / 4 = k
  · subst h; simp [wordMark, hk]
  · simp only [wordMark, BitVec.getLsbD_shiftLeft, hk, h, decide_true, Bool.true_and, decide_false]
    by_cases h' : k < x / 4
    · simp [h']
    · have : k - x / 4 ≠ 0 := by omega
      simp [this]

theorem marks_fold (ws : List (Nat × Word)) (b : BitVec 64) (k : Nat) (hk : k < 64) :
    (ws.foldl (fun b w => b ||| wordMark w.1) b).getLsbD k =
      (b.getLsbD k || ws.any fun w => decide (w.1 / 4 = k)) := by
  induction ws generalizing b with
  | nil => simp
  | cons w ws ih => simp [ih, wordMark_bit _ k hk, Bool.or_assoc]

theorem zip_keys {α β γ : Type} (l : List (α × β)) (m : List (α × γ)) (h : l.map Prod.fst = m.map Prod.fst) :
    (l.zip m).map (fun c => c.1.1) = l.map Prod.fst := by
  have hl : l.length ≤ m.length := by
    have := congrArg List.length h; simp at this; omega
  rw [← congrArg (List.map Prod.fst) (List.map_fst_zip hl), List.map_map]
  rfl

/-- The bit of a header word in the marks of two columns: set exactly if the word differs. -/
theorem marks_bit (x y : Station) (c : (Nat × Word) × (Nat × Word)) (h : c ∈ y.header.zip x.header) :
    (x.marks y).getLsbD (c.1.1 / 4) = decide (c.1.2 ≠ c.2.2) := by
  have hk : (y.header.zip x.header).map (fun c => c.1.1) = _ :=
    (zip_keys _ _ ((header_offsets y).trans (header_offsets x).symm)).trans (header_offsets y)
  have h64 : c.1.1 / 4 < 64 := by
    have : c.1.1 ∈ (y.header.zip x.header).map (fun c => c.1.1) := List.mem_map_of_mem h
    rw [hk] at this
    simp at this
    omega
  have hn : ((y.header.zip x.header).map fun c => c.1.1 / 4).Nodup := by
    have : (y.header.zip x.header).map (fun c => c.1.1 / 4) =
        ((y.header.zip x.header).map fun c => c.1.1).map (· / 4) := by simp
    rw [this, hk]; decide
  have hi := List.inj_on_of_nodup_map hn
  rw [Station.marks, marks_fold _ _ _ h64]
  have h0 : ∀ n, BitVec.getLsbD (0 : BitVec 64) n = false := fun n => by simp
  simp only [dueWords, List.any_map, List.any_filter, h0, Bool.or_false, Bool.false_or]
  rw [Bool.eq_iff_iff, List.any_eq_true]
  constructor
  · rintro ⟨d, hd, hd'⟩
    simp only [Function.comp, Bool.and_eq_true] at hd'
    rw [hi h hd (of_decide_eq_true hd'.2).symm]
    exact hd'.1
  · intro hc
    exact ⟨c, h, by simp [Function.comp] at hc ⊢; exact hc⟩

/-- Words that differ need no mark. -/
theorem dueWords_marks (x y : Station) (w : BitVec 64) :
    dueWords x.header y.header (w ||| x.marks y) = dueWords x.header y.header w := by
  unfold dueWords
  congr 1
  apply List.filter_congr
  intro c hc
  rw [BitVec.getLsbD_or, marks_bit x y c hc, ← Bool.or_assoc, Bool.or_comm (decide _) (w.getLsbD _),
    Bool.or_assoc, Bool.or_self]

/-- Publication depends on the marks of an event and the words that differ together. -/
theorem publish_marks (m : Memory) (i : StationId) (x y : Station) (w : BitVec 64) :
    m.publish i x y (w ||| x.marks y) = m.publish i x y w := by
  unfold Memory.publish
  rw [dueWords_marks]

/-- Two closings of an event agree where the events differ in their marks alone, and those only in words that
the closing publishes for either. -/
theorem commit_congr (p q q' : Part) (hq : q' = { q with touched := q'.touched })
    (h : ∀ i, Part.marked p q i ||| (p.station i).marks (q.station i) =
      Part.marked p q' i ||| (p.station i).marks (q.station i)) :
    Part.commit p q = Part.commit p q' := by
  have e : ∀ i, q'.station i = q.station i := fun i => by rw [hq]; rfl
  have hp : ∀ (m : Memory) (i : StationId),
      m.publish i (p.station i) (q'.station i) (Part.marked p q' i) =
        m.publish i (p.station i) (q.station i) (Part.marked p q i) := fun m i => by
    rw [e, ← publish_marks, ← h, publish_marks]
  rw [Part.commit, Part.commit]
  simp only [hp]
  rw [hq]

theorem take_runs (p : Part) (f : Part → Part) (h : p.Runs) : p.take f = Part.commit p (f p) := by
  simp [Part.take, h]

theorem take_held (p : Part) (f : Part → Part) (h : p.inReset.isSome = true) : p.take f = p := by
  simp [Part.take, h]

theorem always_event (s : State) (f : Part → Part) (h : s.part.Runs) : s.always f = s.event f := by
  rw [State.always, State.event, take_runs _ _ h]

theorem event_runs (s : State) (f : Part → Part) (h : s.part.Runs) :
    s.event f = .next { s with part := Part.commit s.part (f s.part) } := by
  rw [State.event, take_runs _ _ h]

/-- A change that leaves every station column settles the outputs and no more. -/
theorem event_leaves {s : State} {f : Part → Part} {q : Part} (h : s.part.Runs)
    (hs : q.stations = s.part.stations) (ht : q.touched = s.part.touched) (e : f s.part = q) :
    s.event f = .next { s with part := q.settle } := by
  rw [event_runs s f h, e, commit_same _ _ hs ht]

/-- A command that is an event, answered by any change that agrees with the event's on this state. -/
theorem answers_event {c : Instr} {s : State} {g : Part → Part} (f : Part → Part) (hc : exec c s = s.event f)
    (h : s.part.Runs) (e : f s.part = g s.part) : Answers c s g := by
  unfold Answers
  rw [hc, event_runs s f h, e]

/-- One ms at a station's fixture debouncers changes nothing a header shows. -/
theorem setFx_countRaw (p : Part) (i : StationId) (n : Nat) (r : FixtureRaw) :
    p.setFx i (fun f => f.countRaw n r) =
      { p with stations := put p.stations i { p.station i with fx := (p.station i).fx.countRaw n r } } :=
  modify_hidden p i _ rfl

/-- A ms at the fixture debouncers counts at every station and changes nothing else of the part. -/
theorem countFixtures_eq (p : Part) (fixtures : Vector FixtureRaw 4) :
    p.countFixtures fixtures = { p with stations := (p.countFixtures fixtures).stations } ∧
    ∀ i, (p.countFixtures fixtures).station i =
      { p.station i with fx := (p.station i).fx.countRaw p.config.fixtureDebounce fixtures[i] } := by
  simp only [Part.countFixtures, Part.eachStation, stationIds, List.foldl, setFx_countRaw]
  refine ⟨trivial, fun i => ?_⟩
  fin_cases i <;> simp [Part.station, put]

/-- The same for an event that leaves every station column. -/
theorem leaves_event {c : Instr} {s : State} {q : Part} (f : Part → Part) (hc : exec c s = s.event f)
    (h : s.part.Runs) (e : f s.part = q) (hs : q.stations = s.part.stations)
    (ht : q.touched = s.part.touched) : Leaves c s q := by
  unfold Leaves
  rw [hc, event_leaves h hs ht e]

theorem rackctl_runs (p : Part) (v : Word) (raw : RawLevels) (h : p.Runs) (hr : writtenReset v = false) :
    p.rackctlWrite v raw = Part.commit p (p.writeControl v raw) := by
  simp [Part.rackctlWrite, h, hr]

theorem rackctl_held (p : Part) (v : Word) (raw : RawLevels) (h : p.inReset.isSome = true) :
    p.rackctlWrite v raw = p := by
  simp [Part.rackctlWrite, h]

/-! ### The panel's operations change memory and the panel alone -/

/-- Nothing of the part but memory and panel has changed. -/
abbrev PanelOnly (p q : Part) : Prop := q = { p with mem := q.mem, panel := q.panel }

theorem PanelOnly.trans {p q r : Part} (h : PanelOnly p q) (h' : PanelOnly q r) : PanelOnly p r := by
  unfold PanelOnly at *; rw [h', h]

theorem PanelOnly.stations {p q : Part} (h : PanelOnly p q) : q.stations = p.stations := by rw [h]
theorem PanelOnly.station {p q : Part} (h : PanelOnly p q) (i : StationId) : q.station i = p.station i := by
  rw [Part.station, Part.station, h.stations]
theorem PanelOnly.attn {p q : Part} (h : PanelOnly p q) : q.attn = p.attn := by rw [h]
theorem PanelOnly.conv {p q : Part} (h : PanelOnly p q) : q.conv = p.conv := by rw [h]
theorem PanelOnly.rackTime {p q : Part} (h : PanelOnly p q) : q.rackTime = p.rackTime := by rw [h]

theorem setPanel_only (p : Part) (f : Panel → Panel) : PanelOnly p (p.setPanel f) := rfl
theorem publishPanel_only (p : Part) : PanelOnly p p.publishPanel := rfl
theorem publishFigures_only (p : Part) : PanelOnly p p.publishFigures := rfl
theorem beep_only (p : Part) (n : Nat) : PanelOnly p (p.beep n) := rfl

theorem showText_only (p : Part) (cs : List Byte) : PanelOnly p (p.showText cs) := by
  unfold Part.showText; dsimp only; split <;> rfl

theorem showEntry_only (p : Part) (e : PanelEntry) : PanelOnly p (p.showEntry e) := by
  have h : ∀ cs (q : Part), PanelOnly p q → PanelOnly p ((q.showText cs).publishPanel) := fun cs q h =>
    (h.trans (showText_only q cs)).trans (publishPanel_only _)
  unfold Part.showEntry
  dsimp only
  split
  · exact (h _ _ (setPanel_only _ _)).trans (beep_only _ _)
  · split
    · exact (h _ _ (setPanel_only _ _)).trans (beep_only _ _)
    · exact h _ _ (setPanel_only _ _)

theorem showIdle_only (p : Part) : PanelOnly p p.showIdle := showText_only _ _

theorem endShowing_only (p : Part) : PanelOnly p p.endShowing := by
  unfold Part.endShowing
  split
  · exact (setPanel_only _ _).trans (showEntry_only _ _)
  · exact ((setPanel_only _ _).trans (showIdle_only _)).trans (publishPanel_only _)

theorem placeEntry_only (p : Part) (e : PanelEntry) : PanelOnly p (p.placeEntry e) := by
  unfold Part.placeEntry
  split
  · exact showEntry_only _ _
  · split
    · exact (setPanel_only _ _).trans (showEntry_only _ _)
    · exact (setPanel_only _ _).trans (publishPanel_only _)

theorem dropQueued_only (p : Part) (pick : PanelEntry → Bool) : PanelOnly p (p.dropQueued pick) := by
  unfold Part.dropQueued
  split
  · exact (setPanel_only _ _).trans (publishPanel_only _)
  · rfl

theorem withdrawPrompt_only (p : Part) (i : StationId) (b : Bool) : PanelOnly p (p.withdrawPrompt i b) := by
  unfold Part.withdrawPrompt
  split
  · split
    · split
      · exact setPanel_only _ _
      · exact endShowing_only _
    · exact dropQueued_only _ _
  · exact dropQueued_only _ _

theorem removeNotice_only (p : Part) (i : StationId) : PanelOnly p (p.removeNotice i) := by
  unfold Part.removeNotice
  split
  · split
    · exact endShowing_only _
    · exact dropQueued_only _ _
  · exact dropQueued_only _ _

theorem changePrompt_only (p : Part) (i : StationId) (f : PanelEntry → PanelEntry) :
    PanelOnly p (p.changePrompt i f) := (setPanel_only _ _).trans (publishPanel_only _)

@[simp] theorem endShowing_station (p : Part) (i : StationId) : p.endShowing.station i = p.station i :=
  (endShowing_only p).station i

theorem showText_panel (p : Part) (cs : List Byte) :
    (p.showText cs).panel = { p.panel with display := cs, image := some cs } := by
  unfold Part.showText; dsimp only; split <;> rfl

/-- The panel shows the entry it is given, and its queue stands. -/
theorem showEntry_panel (p : Part) (e : PanelEntry) :
    (p.showEntry e).panel.showing = some e ∧ (p.showEntry e).panel.queue = p.panel.queue ∧
    (p.showEntry e).panel.showTime = p.rackTime ∧ (p.showEntry e).panel.keys = p.panel.keys := by
  have h : ∀ q : Part, q.publishPanel.panel = q.panel := fun _ => rfl
  have hb : ∀ (q : Part) n, (q.beep n).panel = { q.panel with buzzerEnd := (q.beep n).panel.buzzerEnd } :=
    fun _ _ => rfl
  unfold Part.showEntry
  dsimp only
  split
  · rw [hb, h, showText_panel]; exact ⟨rfl, rfl, rfl, rfl⟩
  · split
    · rw [hb, h, showText_panel]; exact ⟨rfl, rfl, rfl, rfl⟩
    · rw [h, showText_panel]; exact ⟨rfl, rfl, rfl, rfl⟩

/-- When the showing entry ends, the entries left are those of the queue. -/
theorem endShowing_entries (p : Part) : p.endShowing.panel.entries = p.panel.queue := by
  unfold Part.endShowing
  split
  · rename_i e rest h
    have hs := showEntry_panel (p.setPanel fun c => { c with showing := none, queue := rest }) e
    unfold Panel.entries
    rw [hs.1, hs.2.1, h]
    rfl
  · rename_i h
    have hi : ∀ q : Part, q.showIdle.publishPanel.panel.showing = q.panel.showing ∧
        q.showIdle.publishPanel.panel.queue = q.panel.queue := fun q => by
      have hp : q.showIdle.publishPanel.panel = q.showIdle.panel := rfl
      unfold Part.showIdle at hp ⊢
      rw [hp, showText_panel]
      exact ⟨rfl, rfl⟩
    simp [Panel.entries, hi, h, Part.setPanel]

/-! ### Rack time does not move within an event -/

@[simp] theorem modify_since (p : Part) (i : StationId) (f : Station → Station) (t : Time) :
    (p.modify i f).since t = p.since t := rfl
@[simp] theorem modify_passed (p : Part) (i : StationId) (f : Station → Station) (t : Time) (n : Nat) :
    (p.modify i f).passed t n = p.passed t n := rfl
@[simp] theorem modify_reached (p : Part) (i : StationId) (f : Station → Station) (t : Time) :
    (p.modify i f).reached t = p.reached t := rfl
@[simp] theorem poke32_since (p : Part) (x v : Nat) (t : Time) : (p.poke32 x v).since t = p.since t := rfl
@[simp] theorem setPanel_since (p : Part) (f : Panel → Panel) (t : Time) :
    (p.setPanel f).since t = p.since t := rfl
@[simp] theorem setPanel_passed (p : Part) (f : Panel → Panel) (t : Time) (n : Nat) :
    (p.setPanel f).passed t n = p.passed t n := rfl

/-! ### The ends of a step -/

/-- With no re-run in flight the step in flight takes the result. -/
theorem finish_step (p : Part) (i : StationId) (r : Result) (h : (p.station i).walker.rerun = none) :
    p.finish i r = p.completeStep i r := by
  simp [Part.finish, h]

theorem finish_rerun (p : Part) (i : StationId) (r : Result) (t : Step)
    (h : (p.station i).walker.rerun = some t) : p.finish i r = p.rerunEnd i t r := by
  simp [Part.finish, h]

theorem conclude_none (p : Part) (i : StationId) : Part.conclude i (p, none) = p := rfl

theorem conclude_some (p : Part) (i : StationId) (r : Result) :
    Part.conclude i (p, some r) = p.finish i r := rfl

theorem active_step (w : Walker) (h : w.rerun = none) : w.active = w.step := by simp [Walker.active, h]

theorem active_rerun (w : Walker) (t : Step) (h : w.rerun = some t) : w.active = some t := by
  simp [Walker.active, h]

theorem work_step (w : Walker) (t : Step) (h : w.rerun = none) (hs : w.step = some t) : w.work = t.work := by
  simp [Walker.work, Walker.active, h, hs]

/-- The work of the step in flight with no re-run beside it. -/
theorem work_works (p : Part) (i : StationId) (t : Step) (k : Work) (h : p.Works i t k) :
    (p.station i).walker.work = k := by
  rw [work_step _ _ h.1 h.2.1, h.2.2]

/-- A completion, by the next state R31 chooses. -/
theorem completeStep_some (p : Part) (i : StationId) (t : Step) (r : Result)
    (h : (p.station i).walker.step = some t) :
    p.completeStep i r =
      if r.stops t.flags then (p.completeMain i t r).enterStopped i r.reason
      else (p.completeMain i t r).chain i := by
  simp [Part.completeStep, h]

/-- An examination that finds no cell READY, and no run at its limit, leaves the station IDLE. -/
theorem chain_waits (p : Part) (i : StationId) (h : p.RingWaits i) : p.chain i = p.becomeIdle i := by
  have h2 := h.2
  simp only [Part.chain, Part.examine]
  rw [if_neg h2, if_neg h.1]

/-- An examination at the run length limit stops the station. -/
theorem chain_limit (p : Part) (i : StationId) (h : (p.station i).walker.run.state = .opened)
    (h' : (p.station i).walker.run.taken = 65535) : p.chain i = p.enterStopped i .runOpen := by
  simp only [Part.chain, Part.examine]
  rw [if_pos ⟨h, h'⟩]

end Sys2Proof.Machine
end

