-- ==== Sys2Proof/Laws/Memory.lean ====
section
/-! SUPPORT. Exchange memory: every operation keeps the canonical form, and what each leaves at every
byte. -/

namespace Sys2Proof.Machine

/-! ### The canonical form -/

theorem wfFrom_cons (low a : Nat) (b : Byte) (m : Memory) :
    Memory.wfFrom low ((a, b) :: m) = true ↔
      low ≤ a ∧ a < Config.memoryEnd ∧ b ≠ 0 ∧ Memory.wfFrom (a + 1) m = true := by
  simp only [Memory.wfFrom, Bool.and_eq_true, decide_eq_true_eq]
  tauto

theorem wfFrom_mono {low low' : Nat} {m : Memory} (h : Memory.wfFrom low' m = true) (hl : low ≤ low') :
    Memory.wfFrom low m = true := by
  cases m with
  | nil => rfl
  | cons c m =>
    obtain ⟨a, b⟩ := c
    rw [wfFrom_cons] at h ⊢
    exact ⟨by omega, h.2⟩

theorem read_below {low x : Nat} {m : Memory} (h : Memory.wfFrom low m = true) (hx : x < low) :
    m.read x = 0 := by
  induction m generalizing low with
  | nil => rfl
  | cons c m ih =>
    obtain ⟨a, b⟩ := c
    rw [wfFrom_cons] at h
    have hne : x ≠ a := by omega
    simp only [Memory.read, hne, if_false]
    exact ih h.2.2.2 (by omega)

theorem insert_wfFrom {low x : Nat} {m : Memory} (v : Byte) (h : Memory.wfFrom low m = true)
    (hl : low ≤ x) (hx : x < Config.memoryEnd) : Memory.wfFrom low (m.insert x v) = true := by
  induction m generalizing low with
  | nil =>
    by_cases hv : v = 0
    · simp [Memory.insert, hv, Memory.wfFrom]
    · simp only [Memory.insert, if_neg hv]
      exact (wfFrom_cons ..).mpr ⟨hl, hx, hv, rfl⟩
  | cons c m ih =>
    obtain ⟨a, b⟩ := c
    have hc := (wfFrom_cons low a b m).mp h
    unfold Memory.insert
    split
    · split
      · exact h
      · rename_i hxa hv
        exact (wfFrom_cons ..).mpr ⟨hl, hx, hv, (wfFrom_cons ..).mpr ⟨by omega, hc.2⟩⟩
    · split
      · split
        · exact wfFrom_mono hc.2.2.2 (by omega)
        · rename_i hxa hv
          exact (wfFrom_cons ..).mpr ⟨hl, hx, hv, by rw [hxa]; exact hc.2.2.2⟩
      · exact (wfFrom_cons ..).mpr ⟨hc.1, hc.2.1, hc.2.2.1, ih hc.2.2.2 (by omega)⟩

theorem write_wf {m : Memory} (x : Nat) (v : Byte) (h : m.wf = true) : (m.write x v).wf = true := by
  unfold Memory.write
  split
  · exact insert_wfFrom v h (Nat.zero_le x) ‹_›
  · exact h

theorem writeLE_wf {m : Memory} (x n v : Nat) (h : m.wf = true) : (m.writeLE x n v).wf = true := by
  induction n generalizing m x v with
  | zero => exact h
  | succ n ih => exact ih _ _ (write_wf _ _ h)

theorem writeBytes_wf {m : Memory} (x : Nat) (bs : List Byte) (h : m.wf = true) :
    (m.writeBytes x bs).wf = true := by
  induction bs generalizing m x with
  | nil => exact h
  | cons b bs ih => exact ih _ (write_wf _ _ h)

theorem filter_wfFrom {low : Nat} {m : Memory} (f : Host.Cell → Bool) (h : Memory.wfFrom low m = true) :
    Memory.wfFrom low (m.filter f) = true := by
  induction m generalizing low with
  | nil => rfl
  | cons c m ih =>
    obtain ⟨a, b⟩ := c
    have hc := (wfFrom_cons low a b m).mp h
    rw [List.filter_cons]
    split
    · exact (wfFrom_cons ..).mpr ⟨hc.1, hc.2.1, hc.2.2.1, ih hc.2.2.2⟩
    · exact wfFrom_mono (ih hc.2.2.2) (by omega)

theorem zero_wf {m : Memory} (x n : Nat) (h : m.wf = true) : (m.zero x n).wf = true :=
  filter_wfFrom _ h

theorem writeWords_wf {m : Memory} (base : Nat) (ws : List (Nat × Word)) (h : m.wf = true) :
    (m.writeWords base ws).wf = true := by
  unfold Memory.writeWords
  induction ws generalizing m with
  | nil => exact h
  | cons w ws ih => exact ih (writeLE_wf _ _ _ h)

theorem publish_wf {m : Memory} (i : StationId) (old new : Station) (w : BitVec 64) (h : m.wf = true) :
    (m.publish i old new w).wf = true := by
  unfold Memory.publish
  split
  · exact h
  · exact writeWords_wf _ _ h

theorem ofCells_wf (cells : List Host.Cell) : (Memory.ofCells cells).wf = true := by
  have : ∀ (cs : List Host.Cell) (m : Memory), m.wf = true →
      Memory.wf (cs.foldl (fun m c => Memory.write m c.1 c.2) m) = true := by
    intro cs
    induction cs with
    | nil => exact fun m h => h
    | cons c cs ih => exact fun m h => ih _ (write_wf _ _ h)
  exact this cells [] rfl

theorem commit_mem_wf {p q : Part} (h : q.mem.wf = true) : (Part.commit p q).mem.wf = true := by
  simp only [Part.commit, settle_mem, stationIds, List.foldl]
  exact publish_wf _ _ _ _ (publish_wf _ _ _ _ (publish_wf _ _ _ _ (publish_wf _ _ _ _ h)))

theorem reset_mem_wf : State.reset.part.mem.wf = true := by decide

/-! ### Bytes -/

theorem read_insert_other {x y : Nat} (m : Memory) (v : Byte) (h : y ≠ x) :
    (m.insert x v).read y = m.read y := by
  induction m with
  | nil =>
    unfold Memory.insert
    split <;> simp [Memory.read, h]
  | cons c m ih =>
    obtain ⟨a, b⟩ := c
    unfold Memory.insert
    split
    · split <;> simp [Memory.read, h]
    · split
      · rename_i hxa
        subst hxa
        split <;> simp [Memory.read, h]
      · simp [Memory.read, ih]

theorem read_insert_same {low x : Nat} {m : Memory} (v : Byte) (h : Memory.wfFrom low m = true) :
    (m.insert x v).read x = v := by
  induction m generalizing low with
  | nil =>
    unfold Memory.insert
    split <;> simp_all [Memory.read]
  | cons c m ih =>
    obtain ⟨a, b⟩ := c
    have hc := (wfFrom_cons low a b m).mp h
    unfold Memory.insert
    split
    · split
      · rename_i hxa hv
        rw [hv]
        exact read_below ((wfFrom_cons (x + 1) a b m).mpr ⟨by omega, hc.2⟩) (by omega)
      · simp [Memory.read]
    · split
      · rename_i hxa
        split
        · rename_i hv
          rw [hv]
          exact read_below hc.2.2.2 (by omega)
        · simp [Memory.read]
      · rename_i h1 h2
        simp only [Memory.read, h2, if_false]
        exact ih hc.2.2.2

theorem read_write_other {x y : Nat} (m : Memory) (v : Byte) (h : y ≠ x) :
    (m.write x v).read y = m.read y := by
  unfold Memory.write
  split
  · exact read_insert_other m v h
  · rfl

theorem read_write_same {x : Nat} {m : Memory} (v : Byte) (h : m.wf = true)
    (hx : x < Config.memoryEnd) : (m.write x v).read x = v := by
  simp only [Memory.write, hx, if_true]
  exact read_insert_same v h

theorem read_writeLE_outside (m : Memory) (x n v y : Nat) (h : y < x ∨ x + n ≤ y) :
    (m.writeLE x n v).read y = m.read y := by
  induction n generalizing m x v with
  | zero => rfl
  | succ n ih =>
    rw [Memory.writeLE, ih _ _ _ (by omega)]
    exact read_write_other m _ (by omega)

theorem read_writeBytes_outside (m : Memory) (x : Nat) (bs : List Byte) (y : Nat)
    (h : y < x ∨ x + bs.length ≤ y) : (m.writeBytes x bs).read y = m.read y := by
  induction bs generalizing m x with
  | nil => rfl
  | cons b bs ih =>
    simp only [List.length_cons] at h
    rw [Memory.writeBytes, ih _ _ (by omega)]
    exact read_write_other m _ (by omega)

theorem readLE_write_other (m : Memory) (x y n : Nat) (v : Byte) (h : x < y ∨ y + n ≤ x) :
    (m.write x v).readLE y n = m.readLE y n := by
  induction n generalizing y with
  | zero => rfl
  | succ n ih =>
    rw [Memory.readLE, Memory.readLE, ih _ (by omega), read_write_other m v (by omega)]

theorem readLE_writeLE_outside (m : Memory) (x n v y k : Nat) (h : y + k ≤ x ∨ x + n ≤ y) :
    (m.writeLE x n v).readLE y k = m.readLE y k := by
  induction k generalizing y with
  | zero => rfl
  | succ k ih =>
    rw [Memory.readLE, Memory.readLE, ih _ (by omega), read_writeLE_outside m x n v y (by omega)]

/-- A number written and read back at one place is the number modulo its width. -/
theorem readLE_writeLE_same {m : Memory} (x n v : Nat) (h : m.wf = true)
    (hx : x + n ≤ Config.memoryEnd) : (m.writeLE x n v).readLE x n = v % 256 ^ n := by
  induction n generalizing m x v with
  | zero => simp [Memory.readLE, Nat.mod_one]
  | succ n ih =>
    rw [Memory.writeLE, Memory.readLE, ih _ _ (write_wf _ _ h) (by omega),
      read_writeLE_outside _ _ _ _ _ (Or.inl (Nat.lt_succ_self x)),
      read_write_same _ h (by omega), BitVec.toNat_ofNat,
      show 256 ^ (n + 1) = 256 * 256 ^ n from pow_succ' 256 n, Nat.mod_mul]

theorem read_filter (m : Memory) (f : Nat → Bool) (y : Nat) :
    Memory.read (m.filter fun c => f c.1) y = if f y then m.read y else 0 := by
  induction m with
  | nil => simp [Memory.read]
  | cons c m ih =>
    obtain ⟨a, b⟩ := c
    simp only [List.filter_cons]
    by_cases hy : y = a
    · subst hy
      by_cases hf : f y = true <;> simp [hf, Memory.read, ih]
    · by_cases hf : f a = true <;> simp [hf, Memory.read, hy, ih]

/-- A range of zeros reads 0; every other byte stands. -/
theorem read_zero (m : Memory) (x n y : Nat) :
    (m.zero x n).read y = if x ≤ y ∧ y < x + n then 0 else m.read y := by
  rw [Memory.zero, read_filter m (fun a => decide (a < x) || decide (x + n ≤ a))]
  by_cases h : x ≤ y ∧ y < x + n
  · have : ¬(y < x) ∧ ¬(x + n ≤ y) := by omega
    simp [h, this]
  · have : y < x ∨ x + n ≤ y := by omega
    simp [h, this]

theorem read_writeWords_outside (m : Memory) (base : Nat) (ws : List (Nat × Word)) (y : Nat)
    (h : ∀ w ∈ ws, y < base + w.1 ∨ base + w.1 + 4 ≤ y) : (m.writeWords base ws).read y = m.read y := by
  unfold Memory.writeWords
  induction ws generalizing m with
  | nil => rfl
  | cons w ws ih =>
    rw [List.foldl_cons, ih _ fun w' hw => h w' (List.mem_cons_of_mem _ hw)]
    exact read_writeLE_outside m _ _ _ _ (h w (List.mem_cons_self ..))

end Sys2Proof.Machine
end

