-- ==== Sys2Proof/Laws/PerInstr.lean ====
section
/-! SUPPORT. A family of statements about the commands as syntax, one lemma per constructor: no word of the
table spells a command (log 25). -/

namespace Sys2Proof.Laws.WordRows

/-- No word of any width spells the command: spec/opcode_table.json gives no row a bit. -/
def Statement (i : Instr) : Prop := ∀ nbits w, decodeTableWord nbits w ≠ some i

theorem powerOnReset (contents : List Host.Cell) : Statement (.powerOnReset contents) :=
  fun _ _ h => nomatch h

theorem resetPinAsserted : Statement .resetPinAsserted :=
  fun _ _ h => nomatch h

theorem softReset (value : Word) : Statement (.softReset value) :=
  fun _ _ h => nomatch h

theorem rackEnable (value : Word) (raw : RawLevels) : Statement (.rackEnable value raw) :=
  fun _ _ h => nomatch h

theorem rackDisable (value : Word) : Statement (.rackDisable value) :=
  fun _ _ h => nomatch h

theorem sweepmodeWrite (value : Word) : Statement (.sweepmodeWrite value) :=
  fun _ _ h => nomatch h

theorem sweepWrite (value : Word) : Statement (.sweepWrite value) :=
  fun _ _ h => nomatch h

theorem periodicSweep : Statement .periodicSweep :=
  fun _ _ h => nomatch h

theorem stationHalt (value : Word) : Statement (.stationHalt value) :=
  fun _ _ h => nomatch h

theorem stationClear (value : Word) : Statement (.stationClear value) :=
  fun _ _ h => nomatch h

theorem attnClear (value : Word) : Statement (.attnClear value) :=
  fun _ _ h => nomatch h

theorem attnmaskWrite (value : Word) : Statement (.attnmaskWrite value) :=
  fun _ _ h => nomatch h

theorem guardlogRead : Statement .guardlogRead :=
  fun _ _ h => nomatch h

theorem registerWriteIgnored (register : Register) (value : Word) :
    Statement (.registerWriteIgnored register value) :=
  fun _ _ h => nomatch h

theorem hostMemoryWrite (index : BitVec 14) (value : Word) : Statement (.hostMemoryWrite index value) :=
  fun _ _ h => nomatch h

theorem hostCellStateWrite (station : StationId) (cell : CellId) (value : Word) :
    Statement (.hostCellStateWrite station cell value) :=
  fun _ _ h => nomatch h

theorem rackTimeTick (keys : RawMs 4) (fixtures : Vector FixtureRaw 4) :
    Statement (.rackTimeTick keys fixtures) :=
  fun _ _ h => nomatch h

theorem waitExpiry (station : StationId) : Statement (.waitExpiry station) :=
  fun _ _ h => nomatch h

theorem fixtureDebounceChange (station : StationId) (input : FixtureInput) :
    Statement (.fixtureDebounceChange station input) :=
  fun _ _ h => nomatch h

theorem fixtureCodeChange (station : StationId) (code : BitVec 6) :
    Statement (.fixtureCodeChange station code) :=
  fun _ _ h => nomatch h

theorem twoHandTimeout (station : StationId) : Statement (.twoHandTimeout station) :=
  fun _ _ h => nomatch h

theorem travelTimeout (station : StationId) : Statement (.travelTimeout station) :=
  fun _ _ h => nomatch h

theorem supplyRampStep (station : StationId) : Statement (.supplyRampStep station) :=
  fun _ _ h => nomatch h

theorem supplyMonitorSample (station : StationId) (milliamps millivolts : BitVec 16) (inLimit : Bool) :
    Statement (.supplyMonitorSample station milliamps millivolts inLimit) :=
  fun _ _ h => nomatch h

theorem supplyTrip (station : StationId) : Statement (.supplyTrip station) :=
  fun _ _ h => nomatch h

theorem stimulusRampStep (station : StationId) (channel : RampChannel) :
    Statement (.stimulusRampStep station channel) :=
  fun _ _ h => nomatch h

theorem pgPeriodBoundary (station : StationId) (generator : Fin 4) :
    Statement (.pgPeriodBoundary station generator) :=
  fun _ _ h => nomatch h

theorem scheduleEntryDue (station : StationId) (entry : Fin 16) :
    Statement (.scheduleEntryDue station entry) :=
  fun _ _ h => nomatch h

theorem wireFree (station : StationId) : Statement (.wireFree station) :=
  fun _ _ h => nomatch h

theorem lineSyncComplete (station : StationId) : Statement (.lineSyncComplete station) :=
  fun _ _ h => nomatch h

theorem bitError (station : StationId) (noisy : Bool) : Statement (.bitError station noisy) :=
  fun _ _ h => nomatch h

theorem frameEnd (station : StationId) (noisy : Bool) : Statement (.frameEnd station noisy) :=
  fun _ _ h => nomatch h

theorem responseCharacterReceived (station : StationId) (samples : CharSamples) :
    Statement (.responseCharacterReceived station samples) :=
  fun _ _ h => nomatch h

theorem responseAllowanceExpiry (station : StationId) : Statement (.responseAllowanceExpiry station) :=
  fun _ _ h => nomatch h

theorem responseWindowClose (station : StationId) (noisy : Bool) :
    Statement (.responseWindowClose station noisy) :=
  fun _ _ h => nomatch h

theorem lineStuck (station : StationId) (recessiveSince : Bool) :
    Statement (.lineStuck station recessiveSince) :=
  fun _ _ h => nomatch h

theorem sampleEnd (microvolts : Int) : Statement (.sampleEnd microvolts) :=
  fun _ _ h => nomatch h

theorem inputFilteredEdge (station : StationId) (input : Fin 8) (tick : Tick) :
    Statement (.inputFilteredEdge station input tick) :=
  fun _ _ h => nomatch h

theorem inputExcursionRejected (station : StationId) (input : Fin 8) :
    Statement (.inputExcursionRejected station input) :=
  fun _ _ h => nomatch h

theorem edgeWindowClose (station : StationId) : Statement (.edgeWindowClose station) :=
  fun _ _ h => nomatch h

theorem meterGateEnd (station : StationId) (meter : Fin 2) : Statement (.meterGateEnd station meter) :=
  fun _ _ h => nomatch h

theorem meterDeadline (station : StationId) (meter : Fin 2) : Statement (.meterDeadline station meter) :=
  fun _ _ h => nomatch h

theorem lampIdentityRead (station : StationId) (identity : Byte) :
    Statement (.lampIdentityRead station identity) :=
  fun _ _ h => nomatch h

theorem lampRowUpdate (station : StationId) (readings : Vector Byte 8) :
    Statement (.lampRowUpdate station readings) :=
  fun _ _ h => nomatch h

theorem attemptStart (station : StationId) : Statement (.attemptStart station) :=
  fun _ _ h => nomatch h

theorem settleTimeout (station : StationId) : Statement (.settleTimeout station) :=
  fun _ _ h => nomatch h

theorem listenTimeout (station : StationId) : Statement (.listenTimeout station) :=
  fun _ _ h => nomatch h

theorem keyPress (key : Key) : Statement (.keyPress key) :=
  fun _ _ h => nomatch h

theorem promptTimeout : Statement .promptTimeout :=
  fun _ _ h => nomatch h

theorem panelRender : Statement .panelRender :=
  fun _ _ h => nomatch h

theorem noticeBeep : Statement .noticeBeep :=
  fun _ _ h => nomatch h

theorem buzzerEnd : Statement .buzzerEnd :=
  fun _ _ h => nomatch h

theorem resetEnd : Statement .resetEnd :=
  fun _ _ h => nomatch h

theorem keyRelease (key : Key) : Statement (.keyRelease key) :=
  fun _ _ h => nomatch h

theorem responseWindowOpen (station : StationId) (noisy : Bool) :
    Statement (.responseWindowOpen station noisy) :=
  fun _ _ h => nomatch h

theorem falseStart (station : StationId) : Statement (.falseStart station) :=
  fun _ _ h => nomatch h

end Sys2Proof.Laws.WordRows
end

