-- ==== Sys2Proof/Tests/Slice0.lean ====
section
/-! SUPPORT. Tests: operands that the well-formedness check refuses; figures worked out in spec/; and for
every statement with hypotheses a state and operands that meet them (`test_meets_…`). -/

namespace Sys2Proof.Tests

open Sys2Proof.Machine

/-! ### Small states -/

/-- A machine with nothing waiting. -/
def machine (p : Part) : State := { part := p, pending := [] }

/-- Reset, with one change to station 0, at a rack time. -/
def one (f : Station → Station) (now : Time := 0) : Part :=
  { Part.reset with stations := put Part.reset.stations 0 (f .reset), rackTime := now }

/-- A step of cell 0 taken at rack time 0. -/
def stepOf (k : Work) : Step :=
  { cell := 0, kind := 0, flags := 0, tag := 0, params := 0, takeTime := 0, counted := false, work := k }

/-- Station 0 BUSY on a step. -/
def busy (k : Work) (x : Station) : Station :=
  { x with walker := { x.walker with state := .busy, step := some (stepOf k) } }

def walkerIn (st : StationState) (x : Station) : Station := { x with walker := { x.walker with state := st } }
def runIn (u : RunRecord) (x : Station) : Station := { x with walker := { x.walker with run := u } }
def withFx (f : Fixture → Fixture) (x : Station) : Station := { x with fx := f x.fx }
def withPs (f : Supply → Supply) (x : Station) : Station := { x with ps := f x.ps }
def withSt (f : Stimulus → Stimulus) (x : Station) : Station := { x with st := f x.st }
def withLc (f : Line → Line) (x : Station) : Station := { x with lc := f x.lc }
def withAq (f : Monitors → Monitors) (x : Station) : Station := { x with aq := f x.aq }

def openRun (taken : BitVec 16) : RunRecord := { RunRecord.never with state := .opened, taken := taken }

/-- A station that holds a live unit: CLAMPED, guard closed, supply ON, its first step counted in its run; the raw
level of every fixture input has differed for the debounce time. -/
def live (x : Station) : Station :=
  { x with
    walker := { x.walker with state := .busy, step := some { stepOf (.wait 1) with counted := true }
                              run := openRun 1 }
    fx := { x.fx with state := some .clamped, drive := true, levels := ⟨true, true, false, false, false, true⟩
                      raw := Vector.replicate 6 50 }
    ps := { x.ps with state := .on }
    lc := { x.lc with state := .quiet } }

/-- An enabled rack with one live station, its pin and lamps as they must be. -/
def lawful : Part := Part.settle { one live with enabled := true }

/-- Memory whose configuration passes: every field at its lowest lawful value, station 0 alone enabled. -/
def configured : Part :=
  { Part.reset with
    mem := [(0, 1), (1, 1), (2, 1), (3, 5), (4, 100), (0x80, 1), (0x1990, 1), (0x1992, 1), (0x1993, 2),
            (0x1994, 1), (0x1995, 1), (0x1997, 1)] }

/-- A gain of 1, any count within the scale limit as its window. -/
def unity : Calibration := { offset16 := 0, hold := 0, unit := 0, gain := 65536, base := 0 }

def measureOf (s : Source) (settle interval : Nat) : MeasureWork :=
  MeasureParams.begin { source := s, cal := unity, window := .abs 0 0, hits := 1, settle := settle,
                        interval := interval } 0

def listenOf : ListenWork :=
  { params := { entry := 0, field := ⟨0, false, false, false⟩, cal := unity, window := .abs 0 0, hits := 1,
                timeout := 1 },
    sequence := 0, attempts := 0, hits := 0, last := none, lastMiss := none, noise := false }

/-- A SEND or FETCH frame of entry 0 in progress. -/
def frameOf (fetch window : Bool) : Frame :=
  { entry := 0, fetch := fetch, length := 1, address := 1, bytes := [], window := window, received := [],
    decided := none, noise := false }

def entryOf : Entry :=
  { enable := 1, address := 1, direction := 0, length := 1, period := 5, offset := 0, bound := 0, source := 0,
    position := 0, width := 1, order := 0, ratio := 0, payload := List.replicate 8 0 }

/-- A line with a schedule in a state. -/
def lineIn (st : LineState) (l : Line) : Line :=
  { l with state := st, schedule := some (Vector.replicate 16 entryOf) }

/-- A prompt of station 0. -/
def promptOf : PanelEntry :=
  { station := 0, notice := none, urgent := false, acknowledge := false, text := [], slot := 0, cell := 1,
    runNumber := 0, remaining := none, shown := 0, repeatOffset := 0, repeatCount := 0, rerun := false }

/-- The prompt showing since rack time 0, its station WAITING, at a rack time; every key has been held for the
panel debounce time. -/
def prompted (e : PanelEntry) (now : Time) : Part :=
  { one (fun x => walkerIn .waiting (busy .prompt x)) now with
    panel := { Panel.reset with showing := some e, keyRaw := Vector.replicate 4 50 } }

/-- A re-run WAIT of 1 ms beside the prompt that asked for it. -/
def rerunning : Part :=
  one (fun x => { x with walker := { x.walker with state := .waiting, step := some (stepOf .prompt)
                                                   rerun := some (stepOf (.wait 1)) } }) 1

/-! ### Operands that are not those of their row -/

theorem test_wellFormed_refuses_contents_past_memory :
    Instr.wellFormed (.powerOnReset [(0xFFE0, 1)]) = false := by decide
theorem test_wellFormed_refuses_softReset_without_bit :
    Instr.wellFormed (.softReset 3) = false := by decide
theorem test_wellFormed_refuses_enable_of_zero :
    Instr.wellFormed (.rackEnable 2 ⟨0, Vector.replicate 4 0⟩) = false := by decide
theorem test_wellFormed_refuses_disable_of_one : Instr.wellFormed (.rackDisable 1) = false := by decide
theorem test_wellFormed_refuses_sweepmode_with_reset :
    Instr.wellFormed (.sweepmodeWrite 4) = false := by decide
theorem test_wellFormed_refuses_halt_of_no_station :
    Instr.wellFormed (.stationHalt 0xF0) = false := by decide
theorem test_wellFormed_refuses_clear_of_no_station :
    Instr.wellFormed (.stationClear 0x0F) = false := by decide
theorem test_wellFormed_refuses_ignored_write_of_attn :
    Instr.wellFormed (.registerWriteIgnored .attn 0) = false := by decide
theorem test_wellFormed_refuses_memory_write_of_state_word :
    Instr.wellFormed (.hostMemoryWrite (BitVec.ofNat 14 (0x3AC0 / 4)) 0) = false := by decide
theorem test_wellFormed_refuses_memory_write_of_register :
    Instr.wellFormed (.hostMemoryWrite 0x3FF8 0) = false := by decide
theorem test_decode_spells_no_command : decodeTableWord 32 0 = none := by decide

/-! ### Figures worked out in the spec -/

/-- 01 section 1.8: cell 7 of station 2. -/
theorem test_cell_offset : Config.cell 2 7 = 0x3AC0 ∧ stateWordAt 0x3AC0 = some (2, 7) := by decide

/-- 01 section 1.8: the withdrawal refused while the cell is ACTIVE. -/
theorem test_guard_refuses_withdrawal :
    (Part.poke8 Part.reset 0x3AC0 2).guardedWrite 2 7 0 =
      { Part.poke8 Part.reset 0x3AC0 2 with guardLog := ⟨0x3AC0, 0, 2, false⟩, attn := 0x100000 } := by decide

/-- 08 section 8.6: the rail channel, its half going away from zero. -/
theorem test_rail_voltage :
    analogCount 24185 8 40 = 48330 ∧ scaled { unity with gain := 16384 } 48330 = 12083 := by decide

/-- 08 section 8.6: the rail channel below its zero. -/
theorem test_rail_below_zero : scaled { unity with gain := 16384 } (analogCount 0 4 40) = -10 := by decide

/-- 08: the top of every range is within the scale. -/
theorem test_top_of_ranges :
    scaled { unity with gain := 16777215 } (analogCount 262080 64 (-4096)) = 17821695 := by decide

/-- 08: frequency and duty of the loop-back of PG0. -/
theorem test_loop_back : freqCount 74 1009582 = 732977 ∧ dutyCount 504828 1009582 = 500 := by decide

/-- 08: a TRACK window on MV3 = -3 with ratio 512. -/
theorem test_track_window :
    (Window.track (.mv 3) 512 0 1).bounds { Stimulus.park with mv := put Stimulus.park.mv 3 (-3) } =
      (-3, -1) := by decide

/-- 08: a TRACK window saturated at the scale limit. -/
theorem test_track_window_saturates :
    (Window.track (.mv 3) 8388607 999000000 10000000).bounds
      { Stimulus.park with mv := put Stimulus.park.mv 3 32767 } = (989999999, 999999999) := by decide

/-- 08: a signed field, high byte first. -/
theorem test_listen_field :
    fieldCount ⟨1, true, true, true⟩ [0, 0xFE, 0x0B] = -501 ∧
    fieldCount ⟨2, true, false, false⟩ [0, 0, 0x0B, 0xB8] = 47115 := by decide

/-- 05: the period and high counts of 733,000 mHz at 500 ‰. -/
theorem test_pulse_counts : (countsOf 733000 500 false).period = 13643 ∧
    (countsOf 733000 500 false).high = 6822 := by decide

/-- 06: the frame of entry 3 to address 0x31 carries 5000 low byte first and the check character 0x8D. -/
theorem test_send_frame :
    (Entry.frame
        { entryOf with address := 0x31, length := 3, bound := 1, width := 2, ratio := 512
                       payload := [0, 0, 0x27, 0, 0, 0, 0, 0] }
        3 { Stimulus.park with pg := put Stimulus.park.pg 0 { PulseGen.park with present := 10000 } }).characters =
      [(0xB1, true), (0x88, false), (0x13, false), (0x27, false), (0x8D, false)] := by decide

/-- 06: that frame lasts 69 bit times. -/
theorem test_send_frame_bits : sendFrameBits 3 1 = 69 := by decide

/-- 06 R107, R109: a FETCH frame to address 1 on the wire: break, delimiter, start bit, header 0x81 (bit 0 first),
mark bit, stop bit. -/
theorem test_fetch_frame_levels :
    ({ entry := 0, fetch := true, length := 1, address := 1, bytes := [], window := false, received := [],
       decided := none, noise := false } : Frame).levels 1 =
      List.replicate 13 false ++ [true, false, true, false, false, false, false, false, false, true, true, true] := by
  decide

/-- 07: the 74th edge closes the measurement of the loop-back. -/
theorem test_meter_closes :
    ({ Meter.reset with state := .closing, periods := 73, highTicks := 504828, first := 5000 }.edge false
      1014582).2 = some (74, 1009582, 504828) := by decide

/-- 07 R148: a DARK cell at the on threshold lights, and counts. -/
theorem test_lamp_lights :
    ({ LampCell.zero with intensity := 96 }.update { LampHead.reset with onLevel := 120, offLevel := 60 } 120
      70011).transitions = 1 := by decide

/-! ### States that meet the hypotheses of the statements -/

theorem test_meets_StepTakesFrontCommand :
    ({ State.reset with pending := [.rackTimeTick, .resetEnd] } : State).pending = [.rackTimeTick, .resetEnd] ∧
    State.reset.pending = [] := by decide

theorem test_meets_ResetStateIsLawful : Register.rackctl ≠ .ident ∧ Register.guardlog ≠ .ident := by decide

theorem test_meets_ResetsReachResetStates :
    (machine lawful).part.Runs ∧ (machine lawful).part.mem.wf = true ∧ asksReset 4 = true ∧
    asksReset 0xFFFFFFFF = true := by decide

theorem test_meets_ResetHoldsThePart :
    (machine { Part.reset with inReset := some .powerOn }).part.inReset.isSome = true ∧
    (machine { Part.reset with inReset := some .soft }).part.inReset = some .soft ∧
    (machine { Part.reset with inReset := some .soft }).part.mem.wf = true ∧
    ((machine { Part.reset with inReset := some .soft }).part.station 3).walker.state = .off ∧
    ({ one (withFx fun f => { f with raw := Vector.replicate 6 50 }) with inReset := some .pin } : Part).InputHeld 0
      .guard ∧
    ({ one (withFx fun f => { f with codeRaw := 7, codeCount := 50 }) with inReset := some .pin } : Part).CodeHeld
      0 7 := by decide

/-- The fixture pins of station 3 over one ms. -/
def rawOf (inputs : RawMs 6) (code : Option (BitVec 6)) : Vector FixtureRaw 4 :=
  put (Vector.replicate 4 .quiet) 3 ⟨inputs, code⟩

/-- R50, 00 section 6.4: a raw NEST of station 3 that comes to differ at rack time 0 is due at rack time 2, not at 1; one
that breaks and resumes within the second ms is due one ms later, and one that ends begins a new count. -/
theorem test_input_debounces :
    let p : Part := { Part.reset with config := { RackConfig.reset with fixtureDebounce := 2 } }
    let ms := fun (q : Part) (differs anew : BitVec 6) => q.rackTick .quiet (rawOf ⟨differs, anew⟩ none)
    let one := ms p 1 1
    one.InputHeld 3 .nest = false ∧ ((one.debounceChange 3 .nest).station 3).fx.levels.nest = false ∧
    (((ms one 1 0).debounceChange 3 .nest).station 3).fx.levels.nest = true ∧
    (ms one 1 1).InputHeld 3 .nest = false ∧ (ms (ms one 1 1) 1 0).InputHeld 3 .nest = true ∧
    (ms (ms one 0 0) 1 1).InputHeld 3 .nest = false := by decide

/-- R51, R52, 00 section 6.4: the code bits change one by one while a reset lasts; the code that comes at one rack time
is due 2 ms later and the one between is not followed. -/
theorem test_code_debounces_in_reset :
    let p : Part := { Part.reset with config := { RackConfig.reset with fixtureDebounce := 2 }, inReset := some .pin }
    let between := p.rackTick .quiet (rawOf .quiet (some 7))
    let come := between.rackTick .quiet (rawOf .quiet (some 5))
    let held := come.rackTick .quiet (rawOf .quiet none)
    ((between.codeChange 3 7).station 3).fx.code = 63 ∧ ((held.codeChange 3 7).station 3).fx.code = 63 ∧
    ((come.codeChange 3 5).station 3).fx.code = 63 ∧
    ((held.codeChange 3 5).station 3).fx.code = 5 ∧ held.rackTime = 0 := by decide

/-- One state that every law of every moment admits, and a step from it: the hypotheses of MemoryStaysCanonical,
DriveFollowsFixtureState, DeadSupplyIsParked, LiveSupplyIsHeld, RunCountersKeepIdentity,
AttnPinFollowsRegisters and LampsFollowStations. -/
theorem test_meets_laws :
    lawful.mem.wf = true ∧ lawful.DriveLaw ∧ lawful.ParkLaw ∧ lawful.SupplyLaw ∧ lawful.RunLaw ∧
    lawful.Settled ∧
    ∃ t, step { part := lawful, pending := [.fixtureDebounceChange 0 .guard] } = .next t :=
  ⟨by decide, by decide, by decide, by decide, by decide, by decide, _, rfl⟩

/-- A prompt of station 0 that has asked for a re-run. -/
def repeated : PanelEntry := { promptOf with rerun := true }

/-- An enabled rack: station 0 WAITING on its prompt, which shows, with a re-run beside it; station 1 FAULTED, its
notice queued; station 2 BUSY on a CONTACT that waits for its pin; station 3 with a RUNNING line, a frame on the wire,
two entries due and a generator about to stop. -/
def crowded : Part :=
  { Part.reset with
    enabled := true
    panel := { Panel.reset with showing := some repeated, queue := [noticeEntry 1 .jammed] }
    conv := { Converter.reset with queue := #v[none, none, some (contactRequest unity), none] }
    stations := #v[
      { Station.reset with walker := { Walker.reset with
          state := .waiting, step := some (stepOf .prompt), rerun := some (stepOf (.wait 1)) } },
      walkerIn .faulted .reset,
      busy (.contact { pins := 2, threshold := 1, cal := unity, pin := 0, greatest := 0, greatestAt := 0
                       firstAbove := none, saturated := false }) .reset,
      withSt (fun t => { t with pg := put t.pg 0 { PulseGen.park with
          running := ⟨500, 499, false⟩, pending := some ⟨0, 0, false⟩ } })
        (withLc (fun l => { lineIn .running l with due := [(15, 1), (0, 2)], frame := some (frameOf true true) })
          (walkerIn .idle .reset))] }

theorem test_meets_PanelLaw : crowded.PanelLaw where
  once := by decide
  notices := by decide
  prompts := by
    intro e he
    have h : crowded.panel.entries = [repeated, noticeEntry 1 .jammed] := by decide
    rw [h, List.mem_cons, List.mem_singleton] at he
    rcases he with rfl | rfl
    · exact fun _ => ⟨by decide, ⟨_, rfl, rfl⟩, by decide⟩
    · intro hn; cases hn
  reruns := by
    intro i t h
    fin_cases i
    · cases h; exact ⟨by decide, repeated, by decide, by decide⟩
    · cases h
    · cases h
    · cases h
  steps := by decide
  dark := by decide

theorem test_meets_ConvLaw : crowded.ConvLaw := by
  intro i h
  fin_cases i
  · cases h
  · cases h
  · exact ⟨by decide, by decide, _, rfl, .inr ⟨_, rfl⟩⟩
  · cases h

theorem test_meets_DueLaw : crowded.DueLaw := by
  intro i
  fin_cases i <;> constructor <;> decide

theorem test_meets_PulseLaw : crowded.PulseLaw := by
  intro i k
  refine ⟨by revert i k; decide, fun c h => ?_⟩
  fin_cases i <;> fin_cases k <;> cases h
  decide

theorem test_meets_laws_step : ∃ t, step { part := crowded, pending := [.waitExpiry 0] } = .next t := ⟨_, rfl⟩

theorem test_meets_MemoryStaysCanonical_reads :
    Memory.wf [(0, 1), (0xFFDF, 2)] = true ∧
    ∀ a, Memory.read [(0, 1), (0xFFDF, 2)] a = Memory.read [(0, 1), (0xFFDF, 2)] a :=
  ⟨by decide, fun _ => rfl⟩

theorem test_meets_DriveFollowsFixtureState :
    (∀ f : FixtureState, ∃ g : Fixture, g.driveLawful = true ∧ g.state = some f) ∧
    lawful.DriveLaw ∧ lawful.Runs ∧ lawful.enabled = true ∧ asksReset 0 = false ∧ asksEnable 0 = false ∧
    ∃ t, exec (.rackDisable 0) (machine lawful) = .next t := by
  refine ⟨fun f => ?_, by decide, by decide, by decide, by decide, by decide, _, rfl⟩
  cases f
  · exact ⟨{ Fixture.reset with state := some .opened }, by decide, rfl⟩
  · exact ⟨{ Fixture.reset with state := some .arming }, by decide, rfl⟩
  · exact ⟨{ Fixture.reset with state := some .closing, drive := true }, by decide, rfl⟩
  · exact ⟨{ Fixture.reset with state := some .clamped, drive := true }, by decide, rfl⟩
  · exact ⟨{ Fixture.reset with state := some .opening }, by decide, rfl⟩
  · exact ⟨{ Fixture.reset with state := some .jammed }, by decide, rfl⟩

theorem test_meets_AttnPinFollowsRegisters :
    lawful.Settled ∧ lawful.Runs ∧
    (∃ t, exec (.attnmaskWrite 0xFFFFFFFF) (machine lawful) = .next t) ∧
    (∃ t, exec (.powerOnReset []) (machine lawful) = .next t) ∧
    (∃ t, exec .resetPinAsserted (machine lawful) = .next t) ∧
    asksReset 4 = true ∧ ∃ t, exec (.softReset 4) (machine lawful) = .next t :=
  ⟨by decide, by decide, ⟨_, rfl⟩, ⟨_, rfl⟩, ⟨_, rfl⟩, by decide, _, rfl⟩

theorem test_meets_LampsFollowStations :
    lawful.Settled ∧ (∀ st : StationState, ({ Walker.reset with state := st } : Walker).state = st) ∧
    (∀ r : RunState,
      ({ Walker.reset with state := .idle, run := { RunRecord.never with state := r } } : Walker).run.state = r) ∧
    0 < ({ openRun 2 with failed := 1 } : RunRecord).failed.toNat +
      ({ openRun 2 with failed := 1 } : RunRecord).errored.toNat :=
  ⟨by decide, fun _ => rfl, fun _ => rfl, by decide⟩

theorem test_meets_CommitChangesHeadersOnly :
    lawful.station 3 = Part.reset.station 3 ∧ InHeader 3 (Config.page 3) ∧ InHeader 3 (Config.page 3 + 255) ∧
    (Part.reset.station 1).walker.state = .off ∧ (lawful.station 1).walker.state = .off := by decide

/-- A rack whose header of station 0 stands as its column does. -/
def headed : Part := { lawful with mem := lawful.mem.writeWords (Config.page 0) (lawful.station 0).header }

set_option maxRecDepth 8000 in
theorem test_meets_CommitPublishesChanges :
    headed.mem.wf = true ∧ (headed.station 0).walker.state ≠ .off ∧
    ∀ w ∈ (headed.station 0).header, headed.mem.word (Config.page 0 + w.1) = w.2 := by decide

/-- R20: a HALT and a CLEAR in one write to STNCTL leave an IDLE station IDLE and yet publish its state word, over
the 0xFF a host had written there. -/
theorem test_halt_and_clear_publish :
    ((Part.commit ((one (walkerIn .idle)).poke8 (Config.page 0) 0xFF)
      (((one (walkerIn .idle)).poke8 (Config.page 0) 0xFF).writeStnctl 0x11)).mem.read (Config.page 0)) = 1 := by
  decide

/-- R20, R41: a BEGIN after a run whose one counted step was unjudged zeroes the counts and counts itself: 1, 0, 1;
word 0x18 is published over what a host had written there. -/
theorem test_begin_publishes_counts :
    let p := one fun x => withFx (fun f => { f with code := 5 })
      (runIn { RunRecord.never with state := .passed, taken := 1, unjudged := 1 } x)
    let t := { stepOf .none with kind := 1, params := 255 }
    let q := p.poke32 (Config.page 0 + 0x18) 0xDEADBEEF
    ((q.startStep 0 t).1.station 0).walker.run.unjudged = 1 ∧
    ((q.startStep 0 t).1.touched[(0 : StationId)]).getLsbD (0x18 / 4) = true := by decide

theorem test_meets_HostWritesAreStored :
    Part.reset.Runs ∧ Part.reset.mem.wf = true ∧ plainWord 0 = true ∧ plainWord 0x3FF7 = true := by decide

theorem test_meets_GuardChecksHostWrites :
    Part.reset.Runs ∧ Part.reset.mem.wf = true ∧ R9Accepts (Part.reset.cellState 0 0) 1 ∧
    R9Accepts ((Part.reset.poke8 (Config.cell 3 31) 6).cellState 3 31) 0 ∧
    ¬R9Accepts (Part.reset.cellState 0 0) 2 ∧
    ¬R9Accepts ((Part.reset.poke8 (Config.cell 3 31) 2).cellState 3 31) 0 := by
  unfold R9Accepts; decide

theorem test_meets_GuardLogKeepsLastRefusal :
    Part.reset.Runs ∧ ¬R9Accepts (Part.reset.cellState 3 31) 255 ∧
    (∃ t, exec (.powerOnReset []) State.reset = .next t) ∧
    ∃ t, exec (.softReset 4) State.reset = .next t := by
  refine ⟨by decide, ?_, ⟨_, rfl⟩, _, rfl⟩
  unfold R9Accepts; decide

theorem test_meets_RegisterWritesTakeTheirBits :
    Part.reset.Runs ∧ ignoresWrites .ident = true ∧ ignoresWrites .racktime = true ∧
    ignoresWrites .guardlog = true ∧ asksReset 2 = false ∧ asksEnable 2 = Part.reset.enabled ∧
    asksReset 1 = false ∧ asksEnable 1 = lawful.enabled := by decide

theorem test_meets_EnableRefusedWritesError :
    Part.reset.Runs ∧ Part.reset.mem.wf = true ∧ Part.reset.enabled = false ∧ asksReset 1 = false ∧
    asksEnable 1 = true ∧ Part.reset.validate = some ⟨1, 0, 1⟩ := by decide

theorem test_meets_EnableRefusedWritesError_station :
    (configured.poke8 0x19A9 3).validate = some ⟨2, 0, 0x19A9⟩ := by decide

theorem test_meets_EnableBringsStationsUp :
    configured.Runs ∧ configured.mem.wf = true ∧ configured.enabled = false ∧ asksReset 1 = false ∧
    asksEnable 1 = true ∧ configured.validate = none ∧ configured.readMask.getLsbD 0 = true ∧
    configured.readMask.getLsbD 3 = false := by decide

theorem test_meets_EnableRecoversCutCells :
    (Part.reset.poke8 (Config.cell 0 31) 2).mem.wf = true ∧
    (Part.reset.poke8 (Config.cell 0 31) 2).cellState 0 31 = cellActive ∧
    ¬((Part.reset.poke8 (Config.cell 0 31) 2).cellState 0 0 = cellActive) ∧
    ¬((Part.reset.poke8 (Config.cell 0 31) 2).cellState 0 0 = cellWaiting) := by decide

/-- The header of station 0 as a run record, with a state byte and a taken count. -/
def recorded (state taken : Nat) : Part :=
  (Part.reset.poke8 (Config.page 0 + 0x0C) state).poke16 (Config.page 0 + 0x12) taken

theorem test_meets_EnableRecoversCutCells_run :
    4 < ((recorded 5 2).mem.read (Config.page 0 + 0x0C)).toNat ∧
    ((recorded 4 2).mem.read (Config.page 0 + 0x0C)).toNat ≤ 4 ∧ ((recorded 4 2).readRun 0).state ≠ .opened ∧
    ((recorded 1 2).readRun 0).state = .opened ∧ 0 < ((recorded 1 2).readRun 0).taken.toNat ∧
    ¬0 < ((recorded 1 0).readRun 0).taken.toNat ∧ ((recorded 1 0).readRun 0).state = .opened := by decide

/-- R48 step 1: a run state code outside the table gives the record of a header never written. -/
theorem test_unknown_run_state_is_never : (recorded 5 2).readRun 0 = RunRecord.never := by decide

theorem test_meets_DisableTakesStationsDown :
    lawful.Runs ∧ lawful.enabled = true ∧ asksReset 2 = false ∧ asksEnable 2 = false ∧
    (lawful.station 0).walker.state ≠ .off ∧ (lawful.station 0).ps.state ≠ .off ∧
    (lawful.station 1).walker.state = .off ∧ lawful.mem.wf = true ∧
    (lawful.station 0).walker.step = some { stepOf (.wait 1) with counted := true } ∧
    (lawful.station 0).walker.run.state = .opened ∧ crowded.mem.wf = true ∧
    (crowded.station 0).walker.rerun = some (stepOf (.wait 1)) ∧
    (crowded.station 0).walker.run.state ≠ .opened := by decide

/-- Station 0 IDLE with a WAIT of 1 ms READY at its position. -/
def readyWait : Part :=
  ((one (walkerIn .idle)).poke16 (Config.cell 0 0) 0x0301).poke32 (Config.cell 0 0 + 4) 1

theorem test_meets_SweepsReachIdleStations :
    lawful.Runs ∧ lawful.enabled = true ∧ Part.reset.Runs ∧ Part.reset.enabled = false ∧
    ({ one id 255 with sweepBase := some 0 } : Part).config.sweepInterval ≤
      ({ one id 255 with sweepBase := some 0 } : Part).since 0 ∧
    (lawful.station 1).walker.state ≠ .idle ∧
    (one (walkerIn .idle)).RingWaits 0 ∧ ((one (walkerIn .idle)).station 0).walker.holdReason = .ok := by decide

theorem test_meets_SweepsReachIdleStations_take :
    (readyWait.station 0).walker.state = .idle ∧
    (∀ j, j ≠ 0 → (readyWait.station j).walker.state ≠ .idle) ∧
    readyWait.cellState 0 (readyWait.station 0).walker.position = cellReady ∧
    ¬((readyWait.station 0).walker.run.state = .opened ∧ (readyWait.station 0).walker.run.taken = 65535) ∧
    readyWait.mem.read (Config.cell 0 (readyWait.station 0).walker.position + 1) = 0x03 ∧
    1 ≤ readyWait.u32 (Config.cell 0 (readyWait.station 0).walker.position + 4) ∧
    readyWait.u32 (Config.cell 0 (readyWait.station 0).walker.position + 4) ≤ 600000 := by decide

/-- Station 0 IDLE over a cell whose kind code names none, and over a BEGIN of any fixture with code 5 mounted. -/
def readyKindless : Part := (one (walkerIn .idle)).poke16 (Config.cell 0 0) 0x0001
def readyBegin : Part :=
  ((one fun x => withFx (fun f => { f with code := 5 }) (walkerIn .idle x)).poke16 (Config.cell 0 0) 0x0101).poke8
    (Config.cell 0 0 + 4) 255

set_option maxRecDepth 8000 in
theorem test_meets_SweepsReachIdleStations_examine :
    let began := fun p : Part => (p.takeStep 0).1.startStep 0 (p.takeStep 0).2
    let opens := fun p : Part => (p.station 0).walker.run.state = .opened ∧ (p.station 0).walker.run.taken = 65535
    opens (one (runIn (openRun 65535))) ∧ ¬opens (one (walkerIn .idle)) ∧
    (one (walkerIn .idle)).cellState 0 0 ≠ cellReady ∧ ¬opens readyWait ∧ readyWait.cellState 0 0 = cellReady ∧
    (began readyWait).2 = none ∧ readyKindless.cellState 0 0 = cellReady ∧ ¬opens readyKindless ∧
    (began readyKindless).2 = some (.error .badKind) ∧ ((began readyKindless).1.station 0).walker.step.isSome = true ∧
    readyBegin.cellState 0 0 = cellReady ∧ ¬opens readyBegin ∧ (began readyBegin).2 = some (.done 0 1 5) ∧
    ((began readyBegin).1.station 0).walker.step.isSome = true ∧ (Result.done 0 1 5).verdict = .none ∧
    (Result.error .badKind).verdict = .error := by decide

theorem test_meets_TakeWritesOpeningResults : readyWait.mem.wf = true := by decide

theorem test_meets_TakeWritesOpeningResults_kinds :
    Kind.ofCode 0 = none ∧ Kind.ofCode 0x03 = some .wait ∧ field 0 4 4 < 1 ∧ 1 ≤ field 1 4 4 ∧
    field 600000 4 4 ≤ 600000 ∧ 600000 < field 600001 4 4 ∧ Kind.ofCode 0x20 = some .set ∧ setParams 4 = none ∧
    setParams 3 = some (.mv 0 0) ∧ ((one id).station 0).ps.live = false := by decide

theorem test_meets_TakeWritesOpeningResults_begin :
    let p := one fun x => withFx (fun f => { f with code := 5 }) x
    Kind.ofCode 0x01 = some .begin ∧ 62 < field 63 4 1 ∧ field 63 4 1 ≠ 255 ∧ field 254 4 1 ≠ 255 ∧
    field 62 4 1 ≤ 62 ∧ field 255 4 1 = 255 ∧ (lawful.station 0).walker.run.state = .opened ∧
    (p.station 0).walker.run.state ≠ .opened ∧ (Part.reset.station 0).walker.run.state ≠ .opened ∧
    (Part.reset.station 0).fx.code = 63 ∧ (p.station 0).fx.code ≠ 63 ∧
    field 4 4 1 ≠ (p.station 0).fx.code.toNat ∧ field 5 4 1 = (p.station 0).fx.code.toNat := by decide

/-- Station 0 in an open run with its fixture in a state, its captured code 5, its supply OFF. -/
def fixtureRun (st : FixtureState) : Part :=
  one fun x => runIn (openRun 1) (withFx (fun f => { f with state := some st, captured := some 5 }) x)

theorem test_meets_TakeWritesOpeningResults_end :
    Kind.ofCode 0x02 = some .finish ∧ Kind.ofCode 0x11 = some .release ∧
    ((one id).station 0).walker.run.state ≠ .opened ∧ field 0 4 1 = 0 ∧ field 255 4 1 ≠ 0 ∧
    (lawful.station 0).walker.run.state = .opened ∧ (lawful.station 0).ps.state ≠ .off ∧
    (∀ st ∈ [FixtureState.opened, .opening, .clamped], ((fixtureRun st).station 0).fx.state = some st ∧
      ((fixtureRun st).station 0).walker.run.state = .opened ∧ ((fixtureRun st).station 0).ps.state = .off ∧
      ((fixtureRun st).station 0).fx.captured = some 5) ∧
    (stepOf .none).takeTime = (fixtureRun .opened).rackTime := by decide

theorem test_meets_TakeWritesOpeningResults_contact :
    let p := (fixtureRun .clamped).poke8 (Config.fixtureRecord 5 + 10) 32
    let bad := p.poke8 (Config.calibration 0 8 + 2) 4
    Kind.ofCode 0x12 = some .contact ∧ ((fixtureRun .opening).station 0).fx.state ≠ some .clamped ∧
    (lawful.station 0).fx.state = some .clamped ∧ (lawful.station 0).ps.state ≠ .off ∧
    (p.station 0).fx.state = some .clamped ∧ (p.station 0).ps.state = .off ∧
    (p.station 0).fx.captured = some 5 ∧ (fixtureRun .clamped).contactPins 5 = 0 ∧ p.contactPins 5 = 32 ∧
    (p.poke8 (Config.fixtureRecord 5 + 10) 33).contactPins 5 = 33 ∧ bad.calibration 0 8 = none ∧
    bad.contactPins 5 = 32 ∧ p.calibration 0 8 = some { unity with gain := 0 } := by decide

/-- The parameters of a MEASURE or LISTEN of one hit against 0, with more. -/
def oneHit (more : BitVec 256) : BitVec 256 := more ||| (1#256 <<< 248)

/-- The station's lamp head has been found, with one row and one column. -/
def lampFound (h : LampHead) : LampHead := { h with present := true, rows := 1, columns := 1 }

theorem test_meets_TakeWritesOpeningResults_measure :
    let m := fun s => ({ source := s, cal := { unity with gain := 0 }, window := .abs 0 0, hits := 1, settle := 0
                         interval := 0 } : MeasureParams)
    let found := one (withAq fun a => { a with head := lampFound a.head })
    Kind.ofCode 0x30 = some .measure ∧ Part.reset.measureParams 0 (oneHit 8) = none ∧
    Part.reset.measureParams 0 (oneHit 6) = some (m (.level 0)) ∧ Part.reset.instantCount 0 (.level 0) = some 0 ∧
    Part.reset.measureParams 0 (oneHit 0) = some (m (.analog 0 0)) ∧
    Part.reset.measureParams 0 (oneHit (3 ||| (10#256 <<< 32))) = some (m (.freq 0 0 10)) ∧
    Part.reset.measureParams 0 (oneHit (5 ||| (60000#256 <<< 32))) = some (m (.edges 0 60000)) ∧
    Part.reset.measureParams 0 (oneHit 7) = some (m (.lamp 0 0 .intensity)) ∧
    Part.reset.measureParams 0 (oneHit (7 ||| (1#256 <<< 8))) = some (m (.lamp 0 1 .intensity)) ∧
    (found.station 0).aq.head.pending = false ∧ (found.station 0).aq.head.present = true ∧
    0 < (found.station 0).aq.head.rows ∧ (found.station 0).aq.head.columns ≤ 1 ∧
    (Part.reset.station 0).aq.head.present = false ∧ (Part.reset.station 0).aq.head.pending = false ∧
    ((one (withAq fun a => { a with head := { a.head with pending := true } })).station 0).aq.head.pending = true := by
  decide

theorem test_meets_TakeWritesOpeningResults_listen :
    let q := oneHit ((1#256 <<< 16) ||| (1#256 <<< 48))
    let m := { listenOf.params with cal := { unity with gain := 0 } }
    let fetch := fun n : Nat =>
      (Part.reset.poke8 (Config.scheduleEntry 0 0 + 2) 1).poke8 (Config.scheduleEntry 0 0 + 3) n
    Kind.ofCode 0x38 = some .listen ∧ listenParams (q ||| 16) = none ∧ listenParams q = some m ∧
    ((Part.reset.station 0).lc.schedule.elim (Part.reset.readEntry 0 m.entry) fun t => t[m.entry]).direction ≠ 1 ∧
    ((fetch 0).readEntry 0 m.entry).direction = 1 ∧ ((fetch 0).readEntry 0 m.entry).length < 1 ∧
    1 ≤ ((fetch 1).readEntry 0 m.entry).length ∧ ((fetch 1).station 0).lc.schedule = none := by decide

theorem test_meets_TakeWritesOpeningResults_prompt :
    Kind.ofCode 0x40 = some .prompt ∧ 63 < field 64 4 1 ∧ field 63 4 1 ≤ 63 ∧ 1 < field (2#256 <<< 8) 5 1 ∧
    field (1#256 <<< 8) 5 1 ≤ 1 ∧ 1 < field (2#256 <<< 16) 6 1 ∧ 4 < field (5#256 <<< 24) 7 1 ∧
    field (4#256 <<< 24) 7 1 ≤ 4 ∧ 600 < field (601#256 <<< 32) 8 2 ∧ field (600#256 <<< 32) 8 2 ≤ 600 := by decide

theorem test_meets_CompletionWritesResults :
    lawful.mem.wf = true ∧ (lawful.station 0).walker.step.isSome = true := by decide

theorem test_meets_RunLengthLimitStopsStation :
    ((one (runIn (openRun 65535))).station 0).walker.run.state = .opened ∧
    ((one (runIn (openRun 65535))).station 0).walker.run.taken = 65535 ∧
    ((one fun x => walkerIn .stopped (runIn (openRun 65535) x)).station 0).walker.state = .stopped ∧
    ((one fun x => walkerIn .stopped (runIn (openRun 65535) x)).station 0).walker.run.state = .opened := by
  decide

theorem test_meets_RunCountersMoveOnce :
    (lawful.station 0).walker.run.state = .opened ∧
    (lawful.station 0).walker.step = some { stepOf (.wait 1) with counted := true } ∧
    (lawful.station 0).walker.agrees = true ∧ ({ stepOf (.wait 1) with counted := true } : Step).counted = true ∧
    ¬(Walker.reset.run.state = .opened ∧ (stepOf .none).counted = true) ∧
    ((one (runIn (openRun 0))).station 0).walker.run.state = .opened ∧
    ((one (runIn (openRun 0))).station 0).walker.step = none ∧
    ((one (runIn (openRun 0))).station 0).walker.run.taken ≠ 65535 ∧
    ((one (runIn (openRun 0))).station 0).walker.agrees = true := by decide

theorem test_meets_CompletionChoosesNextState :
    (one (busy (.wait 1))).mem.wf = true ∧
    ((one (busy (.wait 1))).station 0).walker.step = some (stepOf (.wait 1)) ∧
    (one (busy (.wait 1))).RingWaits 0 ∧
    (Result.error .badParam).verdict = .error ∧ (Result.fail .operatorStop 0 0 0).reason = .operatorStop ∧
    (Result.fail .timeout 0 0 0).verdict = .fail ∧ hasFlag flagStopFail flagStopFail = true ∧
    ¬((Result.done 0 1 0).verdict = .error ∨ (Result.done 0 1 0).verdict = .fail) := by decide

theorem test_meets_AbandonmentWritesCell :
    (one (busy (.wait 1))).mem.wf = true ∧ ((one (busy (.wait 1))).station 0).walker.rerun = none ∧
    ((one (busy (.wait 1))).station 0).walker.step = some (stepOf (.wait 1)) ∧
    (stepOf (.measure (measureOf .supplyI 0 0))).work = .measure (measureOf .supplyI 0 0) ∧
    (stepOf (.wait 1)).work ≠ .prompt ∧ rerunning.mem.wf = true ∧
    (rerunning.station 0).walker.rerun = some (stepOf (.wait 1)) := by decide

/-- Of `crowded`: the prompt of station 0 shows, that of no other does (the law: `test_meets_PanelLaw`). -/
theorem test_meets_AbandonmentWritesCell_prompt :
    crowded.panel.showing = some repeated ∧ repeated.station = 0 ∧ repeated.notice = none ∧
    (stepOf .prompt).work = .prompt ∧ ¬(∃ r, AbandonCause.halted = .fault r) ∧
    ∃ r, AbandonCause.fault .jammed = .fault r :=
  ⟨by decide, by decide, by decide, by decide, fun ⟨_, h⟩ => (by cases h), _, rfl⟩

/-- R27, R125: a START abandoned before its load has gathered LIMITED of its clamped periods. -/
theorem test_halted_start_is_limited :
    ((one (busy (.sendStart 2 1))).halt 0).u16 (Config.cell 0 0 + 38) = resLimited.toNat ∧
    ((one (busy (.sendStart 2 0))).halt 0).u16 (Config.cell 0 0 + 38) = 0 := by decide

theorem test_meets_HaltStopsStation :
    Part.reset.Runs ∧ (0xF0 : Word).extractLsb' 0 4 = 0 ∧ (∀ i, (Part.reset.station i).walker.state = .off) ∧
    ((one (walkerIn .stopped)).station 0).walker.state = .stopped ∧
    ((one (walkerIn .idle)).station 0).walker.state = .idle ∧
    ((one (walkerIn .idle)).station 0).walker.step = none ∧
    ((one (walkerIn .idle)).station 0).walker.rerun = none ∧
    ((one (withPs fun u => { u with state := .ramping })).station 0).ps.state = .ramping := by decide

/-- A station BUSY on a CLAMP at a moving fixture, and one with a re-run beside its prompt. -/
theorem test_meets_HaltStopsStation_steps :
    let p := one fun x => withFx (fun f => { f with state := some .closing, drive := true }) (busy (.clamp true) x)
    let a := one fun x => withFx (fun f => { f with state := some .arming }) (busy (.clamp true) x)
    let r := one fun x => { x with walker := { x.walker with state := .waiting, step := some (stepOf .prompt)
                                                             rerun := some { stepOf (.wait 1) with cell := 1 } } }
    p.mem.wf = true ∧ (p.station 0).walker.state = .busy ∧
    (p.station 0).walker.step = some (stepOf (.clamp true)) ∧ (p.station 0).fx.state = some .closing ∧
    (a.station 0).walker.state = .busy ∧ (a.station 0).fx.state = some .arming ∧
    (r.station 0).walker.state = .waiting ∧
    (r.station 0).walker.rerun = some { stepOf (.wait 1) with cell := 1 } := by decide

/-- Station 0 FAULTED with its guard closed. -/
def faulted : Part := one fun x => walkerIn .faulted (withFx (fun f => { f with levels := { f.levels with guard := true } }) x)

theorem test_meets_ClearResumesStation :
    (one (walkerIn .idle)).Runs ∧ ((one (walkerIn .waiting)).station 0).walker.state = .waiting ∧
    ((one (walkerIn .faulted)).station 0).fx.levels.guard = false ∧
    (faulted.station 0).walker.state = .faulted ∧ (faulted.station 0).fx.levels.guard = true ∧
    ¬((faulted.station 0).fx.state = some .jammed ∧ (faulted.station 0).fx.levels.opened = false) ∧
    faulted.cellState 0 (faulted.station 0).walker.position ≠ cellReady ∧
    faulted.panel.queue.all (fun d => !d.noticeOf 0) = true := by decide

theorem test_meets_FaultReportFaultsStation (st : StationState) :
    ((one (walkerIn st)).station 0).walker.state = st := by cases st <;> decide

theorem test_meets_FaultReportFaultsStation_step :
    (one (busy (.wait 1))).mem.wf = true ∧ ((one (busy (.wait 1))).station 0).walker.state = .busy ∧
    ((one (busy (.wait 1))).station 0).walker.step = some (stepOf (.wait 1)) := by decide

/-- A SET of the discrete lines: class 2, bits 0x00FF at byte 8, mask 0x0F0F at byte 12, kind code 0x20. -/
def dlStep : Step :=
  { stepOf .none with kind := 0x20, params := 2 ||| (0x00FF#256 <<< 32) ||| (0x0F0F#256 <<< 64) }

theorem test_meets_DiscreteLinesAreSet :
    Kind.ofCode dlStep.kind = some .set ∧ setParams dlStep.params = some (.dl 0x0F0F 0x00FF) ∧
    (lawful.station 0).ps.live = true := by decide

/-- A step with a kind and parameters. -/
def stepWith (kind : Byte) (params : BitVec 256) : Step := { stepOf .none with kind := kind, params := params }

theorem test_meets_DiscreteLinesAreSet_message :
    let t := stepWith 0x20 (3 ||| (7#256 <<< 8) ||| (0x8000#256 <<< 32))
    Kind.ofCode t.kind = some .set ∧ setParams t.params = some (.mv 7 0x8000) ∧
    (lawful.station 0).ps.live = true := by decide

theorem test_meets_RackTimeTicks :
    Part.reset.Runs ∧ Part.reset.mem.wf = true ∧ (one id 0xFFFFFFFF).Runs ∧
    (one id 0xFFFFFFFF).rackTime = 0xFFFFFFFF ∧
    promptOf.notice = none ∧ promptOf.rerun = false ∧ ({ promptOf with rerun := true }).rerun = true := by decide

theorem test_meets_RackTimeTicks_inputs :
    let p := one fun x => walkerIn .idle (withAq (fun a =>
      { a with inputs := put a.inputs 7 { InputMonitor.reset with edges := 65535, changed := true } }) x)
    p.Runs ∧ p.mem.wf = true ∧ (p.station 0).walker.state ≠ .off ∧
    (p.station 0).aq.inputs[(7 : Fin 8)].changed = true ∧ (p.station 1).walker.state = .off ∧
    lawful.enabled = true ∧ (⟨8, 8⟩ : RawMs 4).differs.getLsbD 3 = true ∧ (⟨8, 8⟩ : RawMs 4).anew.getLsbD 3 = true ∧
    (⟨8, 0⟩ : RawMs 4).anew.getLsbD 3 = false ∧
    lawful.panel.keyRaw[(3 : Fin 4)] < lawful.config.panelDebounce ∧
    (rawOf ⟨0x20, 0x20⟩ (some 63))[(3 : StationId)].inputs.differs.getLsbD (inputNumber .guard).val = true ∧
    (rawOf ⟨0x20, 0x20⟩ (some 63))[(3 : StationId)].inputs.anew.getLsbD (inputNumber .guard).val = true ∧
    (rawOf ⟨0x20, 0⟩ (some 63))[(3 : StationId)].inputs.anew.getLsbD (inputNumber .guard).val = false ∧
    (rawOf .quiet (some 63))[(3 : StationId)].code = some 63 ∧
    (rawOf .quiet (some 63))[(2 : StationId)].code = none := by decide

/-- R174: a key counts in an enabled rack the increments of rack time since its raw level came to differ, and begins
anew with one at whose end it does not. -/
theorem test_key_counts :
    let come := lawful.tick ⟨8, 8⟩
    come.panel.keyRaw.toList = [0, 0, 0, 1] ∧ (come.tick ⟨8, 0⟩).panel.keyRaw.toList = [0, 0, 0, 2] ∧
    (come.tick ⟨8, 8⟩).panel.keyRaw.toList = [0, 0, 0, 1] ∧ (come.tick .quiet).panel.keyRaw.toList = [0, 0, 0, 0] := by
  decide

theorem test_meets_StepTimersExpire_wait :
    (one (busy (.wait 1)) 1).Runs ∧ (one (busy (.wait 1)) 1).Works 0 (stepOf (.wait 1)) (.wait 1) ∧
    1 ≤ (one (busy (.wait 1)) 1).since (stepOf (.wait 1)).takeTime := by decide

theorem test_meets_StepTimersExpire_rerun :
    rerunning.Runs ∧ (rerunning.station 0).walker.rerun = some (stepOf (.wait 1)) ∧
    1 ≤ rerunning.since (stepOf (.wait 1)).takeTime := by decide

/-- A MEASURE of the supply current with a settle timeout of 5 ms, at its expiry. -/
def settling (g : Gathering) : MeasureWork :=
  { measureOf .supplyI 5 1 with gathering := g, nextStart := 5 }

theorem test_meets_StepTimersExpire_settle :
    (one (busy (.measure (settling .none))) 5).Works 0 (stepOf (.measure (settling .none)))
      (.measure (settling .none)) ∧
    (settling .none).params.settle ≠ 0 ∧ (settling .none).expired = false ∧
    5 ≤ (one (busy (.measure (settling .none))) 5).since 0 ∧ (settling .conversion).gathering ≠ .none ∧
    (one (busy (.measure (settling .conversion))) 5).Works 0 (stepOf (.measure (settling .conversion)))
      (.measure (settling .conversion)) := by decide

theorem test_meets_StepTimersExpire_listen :
    (one (busy (.listen listenOf)) 1).Works 0 (stepOf (.listen listenOf)) (.listen listenOf) ∧
    listenOf.params.timeout ≤ (one (busy (.listen listenOf)) 1).since 0 := by decide

theorem test_meets_AttemptsStartWhenDue :
    (one (busy (.measure (measureOf (.level 7) 0 0)))).Works 0 (stepOf (.measure (measureOf (.level 7) 0 0)))
      (.measure (measureOf (.level 7) 0 0)) ∧
    (measureOf (.level 7) 0 0).gathering = .none ∧ (measureOf (.level 7) 0 0).expired = false ∧
    (one id).reached (measureOf (.level 7) 0 0).nextStart = true ∧
    (one (busy (.measure (measureOf (.level 7) 0 0)))).instantCount 0 (.level 7) = some 0 ∧
    (measureOf (.analog 7 6) 0 0).params.source = .analog 7 6 ∧
    (one (busy (.measure (measureOf (.analog 7 6) 0 0)))).Works 0
      (stepOf (.measure (measureOf (.analog 7 6) 0 0))) (.measure (measureOf (.analog 7 6) 0 0)) ∧
    (measureOf (.level 7) 0 0).params.source.instant = true ∧ (measureOf (.level 7) 0 0).params.interval = 0 ∧
    (measureOf (.analog 7 6) 0 0).params.source.instant = false := by decide

theorem test_meets_AttemptsStartWhenDue_gathering :
    let m := measureOf (.duty 1 7 10) 0 0
    let e := measureOf (.edges 7 1) 0 0
    (one (busy (.measure m))).Works 0 (stepOf (.measure m)) (.measure m) ∧ m.gathering = .none ∧
    m.expired = false ∧ (one (busy (.measure m))).reached m.nextStart = true ∧
    m.params.source = .duty 1 7 10 ∧
    (one (busy (.measure e))).Works 0 (stepOf (.measure e)) (.measure e) ∧ e.gathering = .none ∧
    e.expired = false ∧ (one (busy (.measure e))).reached e.nextStart = true ∧
    e.params.source = .edges 7 1 := by decide

theorem test_meets_EvaluationMovesSettleLoop :
    ((one (runIn { openRun 1 with traceCount := 127 })).station 0).walker.run.traceCount.toNat < 128 ∧
    128 ≤ ((one (runIn { openRun 1 with traceCount := 128 })).station 0).walker.run.traceCount.toNat ∧
    ((one (busy (.measure (settling .conversion)))).station 0).walker.rerun = none ∧
    ((one (busy (.measure (settling .conversion)))).station 0).walker.step.isSome = true ∧
    (rerunning.station 0).walker.rerun.isSome = true := by decide

/-- R164: an attempt out of the window counts, sets the hits to 0 and is the last miss. -/
theorem test_settle_loop_counts :
    let p := one (busy (.measure (settling .conversion)))
    let a := evaluate unity (.abs 0 0) Stimulus.park 7
    ((p.settleLoop 0 (settling .conversion) false a).1.station 0).walker.work =
      .measure { settling .none with attempts := 1, last := some a, lastMiss := some (.attempt .above) } := by
  decide

/-! Fixtures -/

def fixtureIn (st : FixtureState) (l : FixtureLevels) (f : Fixture) : Fixture :=
  { f with state := some st, levels := l, captured := some 5, travelStart := some 0
           raw := Vector.replicate 6 50 }

theorem test_meets_FixtureChangesAreRecorded :
    (Part.reset.station 0).walker.state = .off ∧
    ((one (withFx (fixtureIn .opened ⟨true, true, true, true, true, true⟩))).station 0).fx.state =
      some .opened ∧
    ((one (withFx (fixtureIn .jammed ⟨true, true, true, true, true, true⟩))).station 0).fx.levels.opened =
      true ∧
    ((one (withFx (fixtureIn .clamped ⟨false, true, true, true, true, false⟩))).station 0).fx.levels.guard =
      false ∧
    ((one (withFx (fixtureIn .closing ⟨false, true, true, true, true, false⟩))).station 0).fx.levels.closed =
      true ∧
    ((one (withFx (fixtureIn .arming ⟨false, true, true, true, true, false⟩))).station 0).fx.levels.guard =
      false ∧
    (∀ k, (one (withFx (fixtureIn .arming ⟨false, true, true, true, true, false⟩))).InputHeld 0 k) ∧
    (∀ k, ¬Part.reset.InputHeld 0 k) ∧ ¬Part.reset.CodeHeld 0 5 ∧
    (one (withFx fun f => { f with codeRaw := 5, codeCount := 50 })).CodeHeld 0 5 ∧
    (0x1F : BitVec 6).getLsbD (inputNumber .guard).val = false ∧
    (0x20 : BitVec 6).getLsbD (inputNumber .guard).val = true ∧
    (0x20 : BitVec 6).getLsbD (inputNumber .opened).val = false ∧
    Fixture.reset.raw[inputNumber .guard] < 1 ∧ (5 : BitVec 6) ≠ Fixture.reset.code ∧
    ({ Fixture.reset with codeRaw := 5 }).codeRaw ≠ Fixture.reset.code ∧
    Fixture.reset.codeRaw = Fixture.reset.code ∧ Fixture.reset.codeCount < 1 := by
  refine ⟨by decide, by decide, by decide, by decide, by decide, by decide, fun k => ?_, fun k => ?_, by decide,
    by decide, by decide, by decide, by decide, by decide, by decide, by decide, by decide⟩ <;> cases k <;> decide

/-- Station 0 BUSY on a CLAMP whose fixture is in a state. -/
def clamping (st : FixtureState) (l : FixtureLevels) : Part :=
  one (fun x => withFx (fixtureIn st l) (busy (.clamp false) x)) 5000

theorem test_meets_ClampMotionsRun_closed :
    let p := clamping .closing ⟨true, false, false, false, false, true⟩
    p.Runs ∧ p.mem.wf = true ∧ p.Works 0 (stepOf (.clamp false)) (.clamp false) ∧ p.InputHeld 0 .closed ∧
    (p.station 0).walker.state ≠ .off ∧ (p.station 0).fx.state = some .closing ∧
    (p.station 0).fx.levels.closed = false ∧ (p.station 0).fx.levels.nest = true ∧
    (p.station 0).fx.captured = some 5 ∧ (p.station 0).fx.travelStart = some 0 ∧
    (p.station 0).fx.levels.guard = true := by decide

theorem test_meets_ClampMotionsRun_reverse :
    let p := one (fun x => withFx (fun f => { fixtureIn .closing ⟨true, false, false, true, true, true⟩ f with
      twoHand := true }) (busy (.clamp true) x))
    p.Runs ∧ p.Works 0 (stepOf (.clamp true)) (.clamp true) ∧ (p.station 0).walker.state ≠ .off ∧
    (p.station 0).fx.state = some .closing ∧ (p.station 0).fx.captured = some 5 ∧
    (p.station 0).fx.travelStart = some 0 ∧ (p.station 0).fx.twoHand = true ∧
    p.InputHeld 0 .startL ∧ p.InputHeld 0 .startR ∧ p.InputHeld 0 .guard ∧
    (p.station 0).fx.levels.startL = true ∧ (p.station 0).fx.levels.startR = true := by decide

theorem test_meets_ClampMotionsRun_release :
    let p := one fun x => withFx (fixtureIn .opening ⟨true, false, false, false, false, true⟩) (busy .release x)
    let r := one fun x => withFx (fixtureIn .jammed ⟨true, false, false, false, false, true⟩)
      (walkerIn .faulted x)
    p.Runs ∧ p.Works 0 (stepOf .release) .release ∧ (p.station 0).walker.state ≠ .off ∧
    (p.station 0).fx.state = some .opening ∧ (p.station 0).fx.levels.opened = false ∧
    (p.station 0).fx.captured = some 5 ∧ p.InputHeld 0 .opened ∧ r.InputHeld 0 .opened ∧ r.Runs ∧
    r.AtRest 0 ∧ (r.station 0).walker.state ≠ .off ∧
    (r.station 0).fx.state = some .jammed ∧ (r.station 0).fx.levels.opened = false := by decide

theorem test_meets_ClampMotionsRun_faults :
    let p := clamping .closing ⟨false, false, false, false, false, true⟩
    let g := clamping .arming ⟨true, false, true, false, false, true⟩
    p.Runs ∧ p.mem.wf = true ∧ p.InputHeld 0 .closed ∧ g.InputHeld 0 .guard ∧
    (p.station 0).walker.state ≠ .off ∧ (p.station 0).fx.state = some .closing ∧
    (p.station 0).fx.levels.closed = false ∧ (p.station 0).fx.levels.nest = false ∧
    (p.station 0).fx.captured = some 5 ∧ g.Runs ∧ g.Works 0 (stepOf (.clamp false)) (.clamp false) ∧
    (g.station 0).walker.state ≠ .off ∧ (g.station 0).fx.state = some .arming ∧
    (g.station 0).fx.levels.guard = true := by decide

/-- Station 0 ARMING with the left button pressed at rack time 0, at a rack time. -/
def handsAt (now : Time) : Part :=
  one (fun x => withFx (fun f => { fixtureIn .arming ⟨true, false, true, true, false, true⟩ f with
    travelStart := none, firstPress := some 0 }) (busy (.clamp false) x)) now

theorem test_meets_ClampMotionsRun_hands :
    (handsAt 1000).Runs ∧ (handsAt 1000).Works 0 (stepOf (.clamp false)) (.clamp false) ∧
    ((handsAt 1000).station 0).walker.state ≠ .off ∧ ((handsAt 1000).station 0).fx.state = some .arming ∧
    ((handsAt 1000).station 0).fx.lockedOut = false ∧ ((handsAt 1000).station 0).fx.firstPress = some 0 ∧
    ((handsAt 1000).station 0).fx.levels.startL = true ∧ ((handsAt 1000).station 0).fx.levels.startR = false ∧
    ((handsAt 1000).station 0).fx.levels.nest = true ∧ (handsAt 1000).InputHeld 0 .startR ∧
    (handsAt 1001).InputHeld 0 .startR ∧
    (handsAt 1000).since 0 ≤ (handsAt 1000).config.twoHandWindow ∧
    (handsAt 1001).config.twoHandWindow < (handsAt 1001).since 0 := by decide

/-- Station 0 IDLE with its fixture OPEN, a part in the nest or none, a mounted code, its guard closed or open. -/
def fixtureOpen (nest : Bool) (code : BitVec 6) (guard : Bool) : Part :=
  one fun x => withFx (fun f => { f with state := some .opened, code := code
                                         levels := ⟨nest, false, true, false, false, guard⟩ }) x

theorem test_meets_ClampMotionsRun_take :
    Kind.ofCode (stepWith 0x10 0).kind = some .clamp ∧ clampParams 2 = none ∧ clampParams 0 = some none ∧
    clampParams 1 = some (some 0) ∧ clampParams (1 ||| (600#256 <<< 16)) = some (some 600) ∧
    clampParams (1 ||| (601#256 <<< 16)) = none ∧ ((one id).station 0).fx.state ≠ some .opened ∧
    ((fixtureOpen false 5 true).station 0).fx.levels.nest = false ∧
    ((fixtureOpen true 63 true).station 0).fx.code = 63 ∧ ((fixtureOpen true 5 false).station 0).fx.levels.guard = false ∧
    ((fixtureOpen true 62 true).station 0).fx.state = some .opened ∧
    ((fixtureOpen true 62 true).station 0).fx.levels.nest = true ∧ ((fixtureOpen true 62 true).station 0).fx.code ≠ 63 ∧
    ((fixtureOpen true 62 true).station 0).fx.levels.guard = true := by decide

/-- R55, R56: a CLAMP taken where the travel timeout of its code reads 0 moves with 100 ms. -/
theorem test_clamp_take_limits_travel :
    (((fixtureOpen true 5 true).startStep 0 (stepWith 0x10 0)).1.station 0).fx.travelTimeout = 100 ∧
    (((fixtureOpen true 5 true).startStep 0 (stepWith 0x10 0)).1.station 0).fx.state = some .closing := by decide

/-- The right button pressed first; the first press; the end of a lockout with the left button held. -/
theorem test_meets_ClampMotionsRun_buttons :
    let hands := fun (l r locked : Bool) (first : Option Time) =>
      one (fun x => withFx (fun f => { fixtureIn .arming ⟨true, false, true, l, r, true⟩ f with
        travelStart := none, firstPress := first, lockedOut := locked }) (busy (.clamp false) x)) 1000
    ((hands false true false (some 0)).station 0).fx.levels.startR = true ∧
    ((hands false true false (some 0)).station 0).fx.levels.startL = false ∧
    ((hands false true false (some 0)).station 0).fx.firstPress = some 0 ∧
    (hands false true false (some 0)).Works 0 (stepOf (.clamp false)) (.clamp false) ∧
    (hands false true false (some 0)).InputHeld 0 .startL ∧ (hands false false false none).InputHeld 0 .startL ∧
    (hands true false true none).InputHeld 0 .startL ∧
    (hands false false false none).Runs ∧ ((hands false false false none).station 0).fx.state = some .arming ∧
    ((hands false false false none).station 0).fx.lockedOut = false ∧
    ((hands true false true none).station 0).fx.levels.startL = true ∧
    ((hands true false true none).station 0).fx.levels.startR = false ∧
    ((hands true false true none).station 0).fx.state = some .arming := by decide

theorem test_meets_ClampMotionsRun_endRelease :
    let p := one fun x => withFx (fixtureIn .opening ⟨true, false, false, false, false, true⟩)
      (busy (.endRelease 3 2) x)
    p.Runs ∧ p.Works 0 (stepOf (.endRelease 3 2)) (.endRelease 3 2) ∧ (p.station 0).walker.state ≠ .off ∧
    p.InputHeld 0 .opened ∧ (p.station 0).fx.state = some .opening ∧ (p.station 0).fx.levels.opened = false := by decide

/-- R67: the count of code 5 comes up to its limit at an entry to CLAMPED that finds no part: the abandoned CLAMP
is to carry SERVICE_DUE. -/
theorem test_empty_nest_is_due :
    let p := (clamping .closing ⟨false, true, false, false, false, true⟩).poke32 (Config.fixtureRecord 5 + 4) 1
    ((p.enterClamped 0 5).station 0).walker.work = .clamp false true := by decide

theorem test_meets_FixtureTimersExpire :
    let p := one (fun x => withFx (fun f => { fixtureIn .arming ⟨true, false, true, false, false, true⟩ f with
      handTimer := some (0, 1000) }) (busy (.clamp false) x)) 1000
    let q := clamping .closing ⟨true, false, false, false, false, true⟩
    let r := clamping .opening ⟨true, false, true, false, false, true⟩
    p.Runs ∧ p.Works 0 (stepOf (.clamp false)) (.clamp false) ∧ (p.station 0).fx.state = some .arming ∧
    (p.station 0).fx.handTimer = some (0, 1000) ∧ (p.station 0).fx.captured = some 5 ∧ 1000 ≤ p.since 0 ∧
    q.Runs ∧ (q.station 0).fx.state = some .closing ∧ (q.station 0).fx.travelStart = some 0 ∧
    (q.station 0).fx.travelTimeout ≤ q.since 0 ∧ (q.station 0).fx.levels.opened = false ∧
    (r.station 0).fx.state = some .opening ∧ (r.station 0).fx.travelTimeout ≤ r.since 0 ∧
    (r.station 0).fx.levels.opened = true := by decide

theorem test_meets_HeldUnitLosesGuardOrNest :
    let dead := lawful.setPs 0 fun u => { u with state := .tripped }
    lawful.Runs ∧ (lawful.station 0).walker.state ≠ .off ∧ (lawful.station 0).fx.state = some .clamped ∧
    (lawful.station 0).fx.levels.guard = true ∧ (lawful.station 0).fx.levels.nest = true ∧
    lawful.InputHeld 0 .guard ∧ lawful.InputHeld 0 .nest ∧ dead.InputHeld 0 .guard ∧ dead.InputHeld 0 .nest ∧
    (lawful.station 0).ps.live = true ∧ (dead.station 0).ps.live = false ∧
    (dead.station 0).fx.state = some .clamped ∧ (dead.station 0).fx.levels.guard = true := by decide

/-! Supply and stimulus -/

/-- Station 0 on a POWER ON whose ramp of 2 ms began at rack time 0. -/
def ramping (elapsed : Nat) (now : Time) : Part :=
  one (fun x => withPs (fun u => { u with state := .ramping, setpoint := 6000, rampDuration := 2
                                          rampElapsed := elapsed }) (busy (.power true) x)) now

theorem test_meets_SupplyFollowsItsEvents :
    (ramping 0 1).Runs ∧ ((ramping 0 1).station 0).ps.state = .ramping ∧
    ((ramping 0 1).station 0).ps.rampElapsed + 1 ≤ (ramping 0 1).since 0 ∧
    ((ramping 0 1).station 0).ps.rampElapsed + 1 < ((ramping 0 1).station 0).ps.rampDuration ∧
    (ramping 1 2).Works 0 (stepOf (.power true)) (.power true) ∧
    ((ramping 1 2).station 0).ps.rampElapsed + 1 ≤ (ramping 1 2).since 0 ∧
    ((ramping 1 2).station 0).ps.rampElapsed + 1 = ((ramping 1 2).station 0).ps.rampDuration ∧
    (lawful.station 0).ps.live = true ∧
    ((lawful.setPs 0 fun u => { u with tripDue := true }).station 0).ps.tripDue = true ∧
    ((lawful.setPs 0 fun u => { u with tripDue := true }).station 0).ps.live = true ∧
    0 < 1 ∧ 1 ≤ 1 := by decide

/-- The parameters of a POWER ON: setpoint 6000 mV, limit 100 mA, a ramp time, trip delay 1 ms. -/
def onParams (rampTime : BitVec 256) : BitVec 256 :=
  1 ||| (6000#256 <<< 16) ||| (100#256 <<< 32) ||| (rampTime <<< 48) ||| (1#256 <<< 64)

/-- Station 0 with a CLAMPED fixture, a part, a closed guard, and its supply in a state. -/
def poweredIn (st : SupplyState) (commanded : Nat) (lc : LineState) : Part :=
  one fun x => { live x with ps := { x.ps with state := st, commanded := commanded }
                             lc := { x.lc with state := lc } }

theorem test_meets_SupplyFollowsItsEvents_take :
    Kind.ofCode (stepWith 0x18 0).kind = some .power ∧ powerParams 2 = none ∧ powerParams 0 = some none ∧
    powerParams (onParams 0) = some (some ⟨6000, 100, 0, 1, false⟩) ∧
    powerParams (onParams 1001) = some (some ⟨6000, 100, 1000, 1, true⟩) ∧
    powerParams 1 = some (some ⟨6000, 100, 0, 1, true⟩) ∧
    ((poweredIn .off 0 .dormant).station 0).ps.state = .off ∧
    ((poweredIn .on 6000 .quiet).station 0).ps.state = .on ∧ ((poweredIn .on 6000 .quiet).station 0).lc.state ≠ .dormant ∧
    ((poweredIn .off 0 .dormant).station 0).fx.state = some .clamped ∧
    ((poweredIn .off 0 .dormant).station 0).fx.levels.nest = true ∧
    ((poweredIn .off 0 .dormant).station 0).fx.levels.guard = true ∧
    (2 * (1000 * 6000) + 6000) / (2 * 6000) = 1000 ∧ (2 * (1000 * 0) + 6000) / (2 * 6000) = 0 ∧
    ((one id).station 0).fx.state ≠ some .clamped ∧
    ((one fun x => withFx (fun f => { f with levels.nest := false }) (live x)).station 0).fx.levels.nest = false ∧
    ((one fun x => withFx (fun f => { f with levels.guard := false }) (live x)).station 0).fx.levels.guard = false := by
  decide

/-- R77, R113: a POWER ON without a ramp leaves the supply ON at its setpoint and the line QUIET. -/
theorem test_power_on_at_once :
    let q := ((poweredIn .off 0 .dormant).startStep 0 (stepWith 0x18 (onParams 0))).1.station 0
    q.ps.state = .on ∧ q.ps.commanded = 6000 ∧ q.lc.state = .quiet := by decide

theorem test_meets_PulseCountsAreLawful :
    733000 ≠ 0 ∧ (2 * 13643 - 1) * 733000 ≤ 2 * 10000000000 ∧
    2 * 10000000000 < (2 * 13643 + 1) * 733000 ∧ 500 ≤ 13643 ∧ 13643 ≤ 40000000 := by decide

/-- R90, R91: where the clauses meet. 20,020,020 mHz still rounds to 500 counts, 249 mHz to more than 40,000,000. -/
theorem test_meets_PulseCountsAreLawful_ends :
    ¬2 * 10000000000 < 999 * 20020020 ∧ 2 * 10000000000 < 999 * 20020021 ∧ 80000001 * 249 ≤ 2 * 10000000000 ∧
    ¬80000001 * 250 ≤ 2 * 10000000000 ∧
    (countsOf 20020020 500 false).period = 500 ∧ (countsOf 20020020 999 false).high = 499 ∧
    2 * ((countsOf 20020020 1 false).period * 1) = 1000 ∧ (countsOf 20020020 1 false).high = 1 ∧
    clampFrequency 249 = (250, true) ∧ clampFrequency 20020021 = (20000000, true) := by decide

/-- A ramp of 10 a step that began at rack time 0. -/
def rampOf : Ramp := { rate := 10, from_ := 0, start := 0, steps := 0, duty := 500, idle := false }

/-- LV0 and PG0 of station 0 ramping from their park values towards targets, at the first step. -/
def stimulated (target : Nat) (x : Station) : Station :=
  withSt (fun t => { t with
    lv := put t.lv 0 { LevelOut.park with present := 0, target := target, ramp := some rampOf }
    pg := put t.pg 0 { PulseGen.park with target := target, ramp := some rampOf } }) x

/-- What a SET that waits for LV0 holds. -/
def waitingSet : SetWork := { channel := .lv 0, target := 10, duty := 0, steps := 0, limited := false }

theorem test_meets_StimulusRampsStep :
    (one (stimulated 20) 10).Runs ∧ ((one (stimulated 20) 10).station 0).walker.work.awaits (.lv 0) = false ∧
    ((one (fun x => stimulated 20 (busy (.wait 5) x)) 10).station 0).walker.work.awaits (.pg 0) = false ∧
    (Work.set waitingSet).awaits (.pg 0) = false ∧ (Work.set waitingSet).awaits (.lv 1) = false ∧
    ((one (stimulated 20) 10).station 0).st.lv[(0 : Fin 4)].ramp = some rampOf ∧
    ((one (stimulated 20) 10).station 0).st.pg[(0 : Fin 4)].ramp = some rampOf ∧
    10 * (rampOf.steps + 1) ≤ (one (stimulated 20) 10).since rampOf.start ∧
    (one (fun x => stimulated 10 (busy (.set waitingSet) x)) 10).Works 0 (stepOf (.set waitingSet)) (.set waitingSet) ∧
    waitingSet.channel = .lv 0 ∧ rampTowards 0 10 rampOf.rate = 10 ∧
    0 + 10 < 20 ∧ 0 + 10 < 20 := by decide

theorem test_meets_StimulusRampsStep_boundary :
    let p := one (withSt fun t => { t with pg := put t.pg 3 { PulseGen.park with
      running := ⟨500, 1, false⟩, pending := some ⟨501, 1, false⟩ } })
    p.Runs ∧ (p.station 0).st.pg[(3 : Fin 4)].running.period ≠ 0 ∧
    (p.station 0).st.pg[(3 : Fin 4)].pending = some ⟨501, 1, false⟩ ∧
    (p.station 0).st.pg[(0 : Fin 4)].running.period = 0 := by decide

/-- What a SET that waits for PG0 holds. -/
def waitingPulse : SetWork := { channel := .pg 0, target := 10, duty := 500, steps := 0, limited := false }

theorem test_meets_StimulusRampsStep_waiting :
    let a := one (fun x => stimulated 10 (busy (.set waitingPulse) x)) 10
    let b := one (fun x => stimulated 11 (busy (.set waitingPulse) x)) 10
    let c := one (fun x => stimulated 11 (busy (.set waitingSet) x)) 10
    a.Runs ∧ a.Works 0 (stepOf (.set waitingPulse)) (.set waitingPulse) ∧ waitingPulse.channel = .pg 0 ∧
    (a.station 0).st.pg[(0 : Fin 4)].ramp = some rampOf ∧ 10 * (rampOf.steps + 1) ≤ a.since rampOf.start ∧
    rampTowards (a.station 0).st.pg[(0 : Fin 4)].present (a.station 0).st.pg[(0 : Fin 4)].target 10 =
      (a.station 0).st.pg[(0 : Fin 4)].target ∧
    (b.station 0).walker.work = .set waitingPulse ∧ (b.station 0).st.pg[(0 : Fin 4)].ramp = some rampOf ∧
    rampTowards (b.station 0).st.pg[(0 : Fin 4)].present (b.station 0).st.pg[(0 : Fin 4)].target 10 ≠
      (b.station 0).st.pg[(0 : Fin 4)].target ∧
    (c.station 0).walker.work = .set waitingSet ∧ (c.station 0).st.lv[(0 : Fin 4)].ramp = some rampOf ∧
    rampTowards (c.station 0).st.lv[(0 : Fin 4)].present (c.station 0).st.lv[(0 : Fin 4)].target 10 ≠
      (c.station 0).st.lv[(0 : Fin 4)].target := by decide

theorem test_meets_StimulusRampsStep_rerun :
    let f := fun w => one (fun x => stimulated 10 { x with walker := { x.walker with
      state := .waiting, step := some (stepOf .prompt), rerun := some (stepOf (.set w)) } }) 10
    let p := f waitingSet
    let q := f waitingPulse
    p.Runs ∧ (p.station 0).walker.rerun = some (stepOf (.set waitingSet)) ∧
    (stepOf (.set waitingSet)).work = .set waitingSet ∧ waitingSet.channel = .lv 0 ∧
    (p.station 0).st.lv[(0 : Fin 4)].ramp = some rampOf ∧ 10 * (rampOf.steps + 1) ≤ p.since rampOf.start ∧
    rampTowards (p.station 0).st.lv[(0 : Fin 4)].present (p.station 0).st.lv[(0 : Fin 4)].target 10 =
      (p.station 0).st.lv[(0 : Fin 4)].target ∧
    (q.station 0).walker.rerun = some (stepOf (.set waitingPulse)) ∧ waitingPulse.channel = .pg 0 ∧
    (q.station 0).st.pg[(0 : Fin 4)].ramp = some rampOf ∧
    rampTowards (q.station 0).st.pg[(0 : Fin 4)].present (q.station 0).st.pg[(0 : Fin 4)].target 10 =
      (q.station 0).st.pg[(0 : Fin 4)].target := by decide

/-- SETs of PG2 to 733,000 mHz at 500 ‰ and of LV2 to 65535, at a rate, without FROM and with a start value. -/
theorem test_meets_StimulusRampsStep_take :
    let pulse := fun rate : BitVec 256 => (2#256 <<< 8) ||| (733000#256 <<< 32) ||| (500#256 <<< 64) ||| (rate <<< 96)
    let level := fun v : BitVec 256 => 1#256 ||| (2#256 <<< 8) ||| (1#256 <<< 24) ||| (v <<< 32) ||| (100#256 <<< 96)
    Kind.ofCode (stepWith 0x20 0).kind = some .set ∧
    setParams (pulse 0) = some (.pg 2 733000 500 false 0 none) ∧
    setParams (pulse 100) = some (.pg 2 733000 500 false 100 none) ∧
    setParams (level 65535) = some (.lv 2 65535 100 (some 0)) ∧ setParams (level 4001) = some (.lv 2 4001 100 (some 0)) ∧
    (lawful.station 0).ps.live = true ∧ (clampFrequency 733000).1 ≠ (lawful.station 0).st.pg[(2 : Fin 4)].present ∧
    hasFlag flagNoWait flagNoWait = true ∧ hasFlag (stepWith 0x20 0).flags flagNoWait = false := by decide

/-! The line -/

theorem test_meets_DueEntriesTakeTheWire_due :
    let p := one (withLc (lineIn .syncing))
    let d := one (withLc fun l => { lineIn .syncing l with due := [(15, 0)] })
    let r := one (withLc (lineIn .running))
    p.Runs ∧ (p.station 0).lc.schedule = some (Vector.replicate 16 entryOf) ∧
    (Vector.replicate 16 entryOf)[(15 : Fin 16)].enabled = true ∧
    p.reached (p.station 0).lc.nextDue[(15 : Fin 16)] = true ∧ (p.station 0).lc.state = .syncing ∧
    (p.station 0).lc.isDue 15 = false ∧ (d.station 0).lc.isDue 15 = true ∧
    r.reached (r.station 0).lc.nextDue[(15 : Fin 16)] = true ∧ (r.station 0).lc.state = .running ∧
    (r.station 0).lc.frame = none ∧ (r.station 0).lc.gap = false ∧ (r.station 0).lc.due = [] ∧
    ((one (withLc fun l => { lineIn .running l with gap := true })).station 0).lc.gap = true ∧
    ((one (withLc fun l => { lineIn .running l with frame := some (frameOf true true) })).station 0).lc.frame ≠
      none := by decide

theorem test_meets_DueEntriesTakeTheWire_wire :
    let p := one (withLc fun l => { lineIn .running l with gap := true, due := [(2, 0)] })
    let e := one (withLc fun l => { lineIn .running l with gap := true })
    let s := one (withLc fun l => { lineIn .syncing l with due := [(2, 0)] })
    p.Runs ∧ (p.station 0).lc.gap = true ∧ (p.station 0).lc.state = .running ∧
    (p.station 0).lc.frame = none ∧ (p.station 0).lc.due = [(2, 0)] ∧ (e.station 0).lc.gap = true ∧
    (e.station 0).lc.due = [] ∧ (s.station 0).lc.state = .syncing ∧ (s.station 0).lc.frame = none ∧
    (s.station 0).lc.due = [(2, 0)] ∧
    ((one (withLc (lineIn .syncing))).station 0).lc.due = [] := by decide

theorem test_meets_DueEntriesTakeTheWire_insert :
    let before := fun a b : Fin 16 × Time =>
      keyAge 9 b.2 < keyAge 9 a.2 ∨ (keyAge 9 a.2 = keyAge 9 b.2 ∧ a.1 < b.1)
    [((1 : Fin 16), (4 : Time)), (3, 4), (2, 7)].Pairwise before ∧
    ∀ d ∈ [((1 : Fin 16), (4 : Time)), (3, 4), (2, 7)], d.1 ≠ 5 := by simp [keyAge]

/-- Entry 1 of station 0's schedule table: enabled, or with an enable code of neither. -/
def scheduling (enable : Nat) : Part := ({ lawful with rackTime := 50 } : Part).poke8 (Config.scheduleEntry 0 1) enable

set_option maxRecDepth 8000 in
theorem test_meets_DueEntriesTakeTheWire_start :
    Kind.ofCode (stepWith 0x28 0).kind = some .send ∧ sendParams 3 = none ∧ sendParams (2 ||| (16#256 <<< 8)) = none ∧
    sendParams 0 = some .start ∧ ((scheduling 1).station 0).ps.live = true ∧ ((one id).station 0).ps.live = false ∧
    ((scheduling 1).station 0).lc.frame = none ∧ (∀ e : Fin 16, ¬(((scheduling 1).readTable 0)[e].enable ≠ 0 ∧
      ((scheduling 1).readTable 0)[e].valid = false)) ∧
    ((scheduling 2).readTable 0)[(1 : Fin 16)].enable ≠ 0 ∧ ((scheduling 2).readTable 0)[(1 : Fin 16)].valid = false ∧
    ∀ d, d < (1 : Fin 16) → ¬(((scheduling 2).readTable 0)[d].enable ≠ 0 ∧
      ((scheduling 2).readTable 0)[d].valid = false) := by decide

theorem test_meets_DueEntriesTakeTheWire_load :
    (∀ e : Fin 16, (Vector.replicate 16 { entryOf with offset := 1 })[e].enabled = true →
      (Vector.replicate 16 { entryOf with offset := 1 })[e].offset < 2 ^ 31) ∧
    ∀ e : Fin 16, (Vector.replicate 16 entryOf)[e].enabled = true → (Vector.replicate 16 entryOf)[e].offset = 0 := by
  decide

set_option maxRecDepth 8000 in
/-- R119: of a loaded schedule the entries with offset 0 fall due at the load, and the others do not. -/
theorem test_offset_zero_falls_due :
    let p := (one id 100).loadSchedule 0 (put (Vector.replicate 16 { entryOf with offset := 3 }) 7 entryOf)
    (p.station 0).lc.due = [(7, 100)] ∧ (p.station 0).lc.nextDue[(7 : Fin 16)] = 105 ∧
    (p.station 0).lc.nextDue[(8 : Fin 16)] = 103 := by decide

theorem test_meets_DueEntriesTakeTheWire_stop :
    let idle := one fun x => withLc (lineIn .running) (live x)
    let full := one fun x => withLc (fun l => { lineIn .running l with frame := some (frameOf true true) }) (live x)
    sendParams 1 = some .stop ∧ (lawful.station 0).lc.state = .quiet ∧ (idle.station 0).ps.live = true ∧
    (idle.station 0).lc.state = .running ∧ (idle.station 0).lc.frame = none ∧ (full.station 0).lc.state = .running ∧
    (full.station 0).lc.frame ≠ none := by decide

theorem test_meets_DueEntriesTakeTheWire_once :
    let idle := one fun x => withLc (lineIn .running) (live x)
    let gap := one fun x => withLc (fun l => { lineIn .running l with gap := true, due := [(15, 0)] }) (live x)
    sendParams (2 ||| (15#256 <<< 8)) = some (.once 15) ∧ (lawful.station 0).lc.schedule = none ∧
    (idle.station 0).lc.schedule = some (Vector.replicate 16 entryOf) ∧ entryOf.valid = true ∧
    (Vector.replicate 16 entryOf)[(15 : Fin 16)].valid = true ∧ (idle.station 0).lc.frame = none ∧
    (idle.station 0).lc.gap = false ∧ (idle.station 0).lc.due = [] ∧ (gap.station 0).lc.gap = true ∧
    (gap.station 0).lc.isDue 15 = true ∧ (gap.station 0).lc.isDue 14 = false ∧
    (Vector.replicate 16 { entryOf with address := 128 })[(15 : Fin 16)].valid = false := by decide

theorem test_meets_FramesSumToZero :
    127 < 128 ∧ (frameOf false false).fetch = false ∧ (frameOf true false).fetch = true := by decide

theorem test_meets_FramesSumToZero_entry : entryOf.direction = 0 ∧ entryOf.bound = 0 := by decide

/-- A bound entry: LV2 or MV1 in two bytes at position 6, high or low byte first, PG3 in one byte at position 7. -/
theorem test_meets_FramesSumToZero_bound :
    let two := { entryOf with bound := 1, source := 6, length := 8, position := 6, width := 2, order := 1, ratio := -1 }
    two.direction = 0 ∧ two.bound = 1 ∧ two.source = 4 + (2 : Fin 4).val ∧ two.width = 2 ∧
    two.position + two.width ≤ two.length ∧ two.length ≤ two.payload.length ∧ two.order = 1 ∧
    ({ two with order := 0, source := 9 }).order = 0 ∧ ({ two with source := 9 }).source = 8 + (1 : Fin 8).val ∧
    ({ two with source := 3, width := 1, position := 7 }).source = (3 : Fin 4).val ∧
    ({ two with source := 3, width := 1, position := 7 }).position + 1 ≤ 8 := by decide

theorem test_meets_FrameEndsUpdateRecords :
    Part.reset.mem.wf = true ∧ (frameOf true true).length ≤ 8 ∧
    ({ frameOf true true with received := [1, 2] } : Frame).length ≤
      ({ frameOf true true with received := [1, 2] } : Frame).received.length ∧
    ({ frameOf true true with length := 8, received := List.replicate 9 0 } : Frame).length ≤ 8 := by decide

/-- Station 0 with a frame on a RUNNING line. -/
def framed (f : Frame) (x : Station) : Station := withLc (fun l => { lineIn .running l with frame := some f }) x

theorem test_meets_FramesEnd :
    let p := one (framed (frameOf false false))
    let w := one (framed (frameOf true true))
    let o := one fun x => framed (frameOf false false) (busy (.sendOnce 0 true) x)
    let z := one fun x => withLc (fun l => { l with pendingStop := true })
      (framed (frameOf false false) (busy (.sendStop 2) x))
    p.Runs ∧ (p.station 0).lc.frame = some (frameOf false false) ∧ (frameOf false false).window = false ∧
    (p.station 0).lc.pendingStop = false ∧ (p.station 0).lc.pendingReload = none ∧
    (p.station 0).walker.work.hearsFrames = false ∧ (w.station 0).lc.frame = some (frameOf true true) ∧
    (frameOf true true).window = true ∧ (w.station 0).walker.work.hearsFrames = false ∧
    o.Works 0 (stepOf (.sendOnce (frameOf false false).entry true))
      (.sendOnce (frameOf false false).entry true) ∧ (o.station 0).lc.pendingStop = false ∧
    z.Works 0 (stepOf (.sendStop 2)) (.sendStop 2) ∧ (z.station 0).lc.pendingStop = true := by decide

theorem test_meets_FramesEnd_reload :
    let p := one fun x => withLc (fun l => { l with pendingReload := some (Vector.replicate 16 entryOf) })
      (framed (frameOf false false) (busy (.sendStart 16 0) x))
    p.Runs ∧ (p.station 0).lc.frame = some (frameOf false false) ∧ (p.station 0).lc.pendingStop = false ∧
    (p.station 0).lc.pendingReload = some (Vector.replicate 16 entryOf) ∧
    p.Works 0 (stepOf (.sendStart 16 0)) (.sendStart 16 0) := by decide

/-- A ONCE of the FETCH entry in its window, a STOP and a START that wait for its end. -/
theorem test_meets_FramesEnd_window :
    let f := frameOf true true
    let full := { f with received := [0] }
    let o := fun g => one fun x => framed g (busy (.sendOnce 0 true) x)
    let z := fun g => one fun x => withLc (fun l => { l with pendingStop := true }) (framed g (busy (.sendStop 2) x))
    let a := fun g => one fun x => withLc (fun l => { l with pendingReload := some (Vector.replicate 16 entryOf) })
      (framed g (busy (.sendStart 16 1) x))
    (o f).Runs ∧ f.window = true ∧ f.decided = none ∧ full.length ≤ full.received.length ∧
    ((o f).station 0).lc.frame = some f ∧ ((o full).station 0).lc.frame = some full ∧
    (o f).Works 0 (stepOf (.sendOnce f.entry true)) (.sendOnce f.entry true) ∧
    ((o f).station 0).lc.pendingStop = false ∧ ((o f).station 0).lc.pendingReload = none ∧
    ((z f).station 0).lc.pendingStop = true ∧ ((z f).station 0).lc.frame = some f ∧
    (z full).Works 0 (stepOf (.sendStop 2)) (.sendStop 2) ∧ ((a f).station 0).lc.pendingStop = false ∧
    ((a f).station 0).lc.frame = some f ∧
    ((a f).station 0).lc.pendingReload = some (Vector.replicate 16 entryOf) ∧
    (a f).Works 0 (stepOf (.sendStart 16 1)) (.sendStart 16 1) ∧
    majority (⟨0, Vector.replicate 8 0, 0, 7⟩ : CharSamples).start = false ∧ majority 0 = false ∧ majority 7 = true := by
  decide

/-- Station 0 on a LISTEN of the entry whose answer is awaited. -/
def listening (f : Frame) : Part := one fun x => framed f (busy (.listen listenOf) x)

theorem test_meets_FramesEnd_listen :
    let f := frameOf true true
    let g := { frameOf true true with received := [0], address := 0 }
    (listening f).Runs ∧ ((listening f).station 0).lc.frame = some f ∧ f.window = true ∧ f.fetch = true ∧
    ((listening f).station 0).lc.pendingStop = false ∧ ((listening f).station 0).lc.pendingReload = none ∧
    (listening f).Works 0 (stepOf (.listen listenOf)) (.listen listenOf) ∧
    listenOf.params.entry = f.entry ∧ f.decided.getD .short = .short ∧ FrameResult.short ≠ .ok ∧
    ((listening g).station 0).lc.frame = some g ∧ g.decided = none ∧ g.length ≤ g.received.length ∧
    majority 0 = false ∧ majority 7 = true ∧
    headerByte g.address + byteSum (g.received ++ [samplesByte ⟨0, Vector.replicate 8 0, 0, 7⟩]) = 0 := by
  decide

/-- A FETCH frame still being transmitted, and an answer whose last character does not make the sum 0. -/
theorem test_meets_FramesEnd_listen_bad :
    let f := frameOf true false
    let g := { frameOf true true with received := [0] }
    (listening f).Runs ∧ ((listening f).station 0).lc.frame = some f ∧ f.window = false ∧ f.fetch = true ∧
    ((listening f).station 0).lc.pendingStop = false ∧ ((listening f).station 0).lc.pendingReload = none ∧
    (listening f).Works 0 (stepOf (.listen listenOf)) (.listen listenOf) ∧ listenOf.params.entry = f.entry ∧
    ((listening g).station 0).lc.frame = some g ∧ g.window = true ∧ g.decided = none ∧
    g.length ≤ g.received.length ∧ majority 0 = false ∧ majority 7 = true ∧
    headerByte g.address + byteSum (g.received ++ [samplesByte ⟨0, Vector.replicate 8 0, 0, 7⟩]) ≠ 0 := by
  decide

/-- A character whose start bit is dominant, its other bits as given. -/
def charOf (mark stop : BitVec 3) : CharSamples := ⟨0, Vector.replicate 8 0, mark, stop⟩

theorem test_meets_ResponsesAreHeard :
    let p := one (framed (frameOf true false))
    let w := one (framed (frameOf true true))
    let full := one (framed { frameOf true true with received := [0] })
    p.Runs ∧ (p.station 0).lc.frame = some (frameOf true false) ∧ (frameOf true false).fetch = true ∧
    w.Runs ∧ (w.station 0).lc.frame = some (frameOf true true) ∧ (frameOf true true).decided = none ∧
    (frameOf true true).received = [] ∧ majority (charOf 3 7).start = false ∧
    majority ({ charOf 3 7 with start := 7 } : CharSamples).start = true ∧
    majority (charOf 3 7).mark = true ∧ majority (charOf 4 4).mark = false ∧
    majority (charOf 4 4).stop = false ∧ majority (charOf 0 6).stop = true ∧
    (frameOf true true).received.length < (frameOf true true).length ∧
    (full.station 0).lc.frame = some { frameOf true true with received := [0] } ∧
    ({ frameOf true true with received := [0] } : Frame).length ≤
      ({ frameOf true true with received := [0] } : Frame).received.length ∧
    (full.station 0).lc.pendingStop = false ∧ (full.station 0).lc.pendingReload = none ∧
    (full.station 0).walker.work.hearsFrames = false ∧ (Part.reset.station 0).lc.frame = none ∧
    ({ frameOf true true with decided := some .mark } : Frame).decided.isSome = true := by decide

theorem test_meets_StuckLineIsCleared :
    let q := one (withLc fun l => { l with state := .quiet, stuckHeld := true })
    let s := one (withLc (lineIn .syncing))
    let w := one (framed (frameOf true true))
    q.Runs ∧ (q.station 0).lc.frame = none ∧ (q.station 0).lc.stuckHeld = true ∧
    (q.station 0).lc.state = .quiet ∧ (q.station 0).walker.work.hearsFrames = false ∧
    (s.station 0).lc.frame = none ∧ (s.station 0).lc.stuckHeld = false ∧ (s.station 0).lc.state = .syncing ∧
    (w.station 0).lc.frame = some (frameOf true true) ∧ (w.station 0).lc.state = .running ∧
    (w.station 0).lc.stuckHeld = false ∧ (Part.reset.station 0).lc.state = .dormant := by decide

theorem test_meets_StuckLineIsCleared_waiting :
    let s := fun w => one (fun x => withLc (lineIn .syncing) (busy w x))
    let f := fun w => one (fun x => framed (frameOf false true) (busy w x))
    (s (.sendOnce 3 false)).Runs ∧ ((s (.sendOnce 3 false)).station 0).lc.frame = none ∧
    ((s (.sendOnce 3 false)).station 0).lc.stuckHeld = false ∧
    ((s (.sendOnce 3 false)).station 0).lc.state = .syncing ∧
    (s (.sendOnce 3 false)).Works 0 (stepOf (.sendOnce 3 false)) (.sendOnce 3 false) ∧
    (s (.listen listenOf)).Works 0 (stepOf (.listen listenOf)) (.listen listenOf) ∧
    (f (.sendOnce 0 true)).Runs ∧ ((f (.sendOnce 0 true)).station 0).lc.frame = some (frameOf false true) ∧
    (frameOf false true).window = true ∧ ((f (.sendOnce 0 true)).station 0).lc.state = .running ∧
    (f (.sendOnce 0 true)).Works 0 (stepOf (.sendOnce (frameOf false true).entry true))
      (.sendOnce (frameOf false true).entry true) ∧
    (f (.sendOnce 3 false)).Works 0 (stepOf (.sendOnce 3 false)) (.sendOnce 3 false) ∧
    (f (.sendStop 4)).Works 0 (stepOf (.sendStop 4)) (.sendStop 4) ∧
    (f (.sendStart 2 1)).Works 0 (stepOf (.sendStart 2 1)) (.sendStart 2 1) ∧
    (f (.listen listenOf)).Works 0 (stepOf (.listen listenOf)) (.listen listenOf) ∧
    listenOf.params.entry = (frameOf false true).entry ∧
    ({ listenOf.params with entry := 15 }).entry ≠ (frameOf false true).entry := by decide

/-- R128, R27: a pending START that meets a stuck line ends with ERROR LINE_ERROR, which stops the station, and with
the LIMITED of its clamped period. -/
theorem test_stuck_line_ends_start :
    let p := (one fun x => framed (frameOf false true) (busy (.sendStart 2 1) x)).stuckLine 0 false
    (p.station 0).walker.state = .stopped ∧ (p.station 0).walker.holdReason = .lineError ∧
    p.u16 (Config.cell 0 0 + 38) = resLimited.toNat := by decide

set_option maxRecDepth 8000 in
/-- R116: a stuck line cuts the ONCE in flight, which completes with STUCK and takes the SEND START in cell 1; the flag
is set after that load, and stands. -/
theorem test_stuck_flag_outlasts_chained_start :
    let p := (one fun x => withPs (fun u => { u with state := .on }) (withLc (lineIn .syncing)
      { busy (.sendOnce 3 false) x with
        walker := { (busy (.sendOnce 3 false) x).walker with position := 1 } })).poke16 (Config.cell 0 1) 0x2801
    let q := p.stuckLine 0 false
    (q.station 0).lc.stuckFlag = true ∧ (q.station 0).lc.stuckCount = 1 ∧
    q.cellState 0 0 = cellDone ∧ q.cellState 0 1 = cellDone := by decide

/-! Acquisition -/

def requestOf (samples done : Nat) : Request :=
  { channel := some 0, samples := samples, hold := 0, done := done, sum := 0, requester := .walker }

/-- A converter on the first sample of station 3's request. -/
def converting (samples done : Nat) (alive : Bool) : Converter :=
  { Converter.reset with queue := put Converter.reset.queue 3 (some (requestOf samples done))
                         sample := some ⟨.request 3, 0, alive⟩ }

theorem test_meets_ArbiterGrantsInTurn :
    (converting 1 0 true).refCheck = none ∧ (∀ i : StationId, Converter.reset.queue[i] = none) ∧
    (converting 1 0 true).queue[(converting 1 0 true).lastGranted + Fin.ofNat 4 4] =
      some (requestOf 1 0) ∧
    ∀ m < 4, 1 ≤ m → (converting 1 0 true).queue[(converting 1 0 true).lastGranted + Fin.ofNat 4 m] = none := by
  decide

theorem test_meets_ConverterSamplesEnd :
    let w := { measureOf (.analog 0 0) 0 0 with gathering := Gathering.conversion }
    let p : Part :=
      { Part.reset with stations := put Part.reset.stations 3 (busy (.measure w) .reset)
                        conv := converting 2 1 true }
    p.Runs ∧ p.conv.sample = some ⟨.request 3, 0, true⟩ ∧
    p.conv.queue[(3 : StationId)] = some (requestOf 2 1) ∧ (requestOf 2 1).samples ≤ (requestOf 2 1).done + 1 ∧
    (requestOf 2 1).requester = .walker ∧ p.Works 3 (stepOf (.measure w)) (.measure w) ∧
    w.gathering = .conversion ∧ (requestOf 2 0).done + 1 < (requestOf 2 0).samples ∧
    (converting 2 0 true).queue[(3 : StationId)] = some (requestOf 2 0) ∧
    (converting 2 0 false).sample = some ⟨.request 3, 0, false⟩ ∧ (4094999 : Int) < 4095000 := by decide

/-- A CONTACT of two pins at its last pin, its request from the fixture controller at its last sample. -/
def contactOf (pin : Nat) : ContactWork :=
  { pins := 2, threshold := 0, cal := unity, pin := pin, greatest := 0, greatestAt := 0, firstAbove := none,
    saturated := false }

def contacting (pin : Nat) : Part :=
  { one (busy (.contact (contactOf pin))) with
    conv := { Converter.reset with
      queue := put Converter.reset.queue 0 (some { requestOf 4 3 with channel := none, requester := .fixture })
      sample := some ⟨.request 0, 0, true⟩ } }

theorem test_meets_ConverterSamplesEnd_contact :
    (contacting 0).Runs ∧ (contacting 0).conv.sample = some ⟨.request 0, 0, true⟩ ∧
    (contacting 0).conv.queue[(0 : StationId)] =
      some { requestOf 4 3 with channel := none, requester := .fixture } ∧
    (contacting 0).Works 0 (stepOf (.contact (contactOf 0))) (.contact (contactOf 0)) ∧
    (contactOf 0).pin + 1 < (contactOf 0).pins ∧ (contactOf 1).pins ≤ (contactOf 1).pin + 1 := by decide

theorem test_meets_ConverterSamplesEnd_pins :
    let w := { contactOf 0 with threshold := 5 }
    let low : List (Int × Bool) := [(3, false), (5, true), (5, false)]
    let high : List (Int × Bool) := [(5, false), (6, false), (9, true)]
    w.pin = 0 ∧ w.firstAbove = none ∧ w.saturated = false ∧ low ≠ [] ∧ (∀ v ∈ low, v.1 ≤ w.threshold) ∧
    high[1]? = some (6, false) ∧ (w.threshold : Int) < 6 ∧
    ∀ m < 1, ∀ u, high[m]? = some u → u.1 ≤ (w.threshold : Int) := by
  refine ⟨rfl, rfl, rfl, by decide, by decide, rfl, by decide, fun m hm u hu => ?_⟩
  obtain rfl : m = 0 := by omega
  cases hu; decide

/-- R71: the value of a failed CONTACT is the greatest resistance, its auxiliary value the lowest pin above the
threshold. -/
theorem test_contact_result :
    (([(5, false), (6, false), (9, true)] : List (Int × Bool)).foldl (fun (w : ContactWork) v => w.add v.1 v.2)
      { contactOf 0 with threshold := 5 }).result =
      { verdict := .fail, reason := .contactFail, flags := resSaturated, value := 9, aux := 1, attempts := 3
        unit := 3 } := by decide

/-- The converter on a reference sample of a check that has done some. -/
def checking (r : RefCheck) : Part :=
  { Part.reset with conv := { Converter.reset with sample := some ⟨.reference (decide (r.done < 16)), 3, true⟩
                                                   refCheck := some r } }

theorem test_meets_ConverterSamplesEnd_reference :
    (checking ⟨31, 49152, 15000⟩).Runs ∧ (checking ⟨31, 49152, 15000⟩).conv.refCheck = some ⟨31, 49152, 15000⟩ ∧
    (checking ⟨31, 49152, 15000⟩).conv.sample = some ⟨.reference false, 3, true⟩ ∧
    (checking ⟨15, 0, 0⟩).conv.sample = some ⟨.reference true, 3, true⟩ := by decide

theorem test_meets_InputsAndMetersCount_inputs :
    let p := one (walkerIn .idle)
    p.Runs ∧ (p.station 0).walker.state ≠ .off ∧
    ∀ n : Fin 2, (p.station 0).aq.meters[n].state = .idle ∨ (p.station 0).aq.meters[n].input ≠ 7 := by decide

/-- R139 (log 44): an excursion rejected at the full count leaves it there and counts as a change. -/
theorem test_rejection_at_full_count :
    ({ InputMonitor.reset with rejected := 65535 } : InputMonitor).reject =
      { InputMonitor.reset with rejected := 65535, changed := true } := by decide

theorem test_meets_InputsAndMetersCount_window :
    let m := { measureOf (.edges 0 10) 0 0 with gathering := Gathering.window }
    let p := one (fun x => withAq (fun a => { a with window := some ⟨0, 0, 10, 3⟩ })
      (busy (.measure m) x)) 10
    p.Runs ∧ (p.station 0).aq.window = some ⟨0, 0, 10, 3⟩ ∧ 10 ≤ p.since 0 ∧
    p.Works 0 (stepOf (.measure m)) (.measure m) ∧ m.gathering = .window := by decide

theorem test_meets_InputsAndMetersCount_meter :
    let m := { measureOf (.freq 1 0 10) 0 0 with gathering := Gathering.meter }
    let p := one (fun x => withAq (fun a =>
      { a with meters := put a.meters 1 { Meter.reset with state := .counting, gate := 10 } })
      (busy (.measure m) x)) 30
    p.Runs ∧ (p.station 0).aq.meters[(1 : Fin 2)].state = .counting ∧
    3 * (p.station 0).aq.meters[(1 : Fin 2)].gate ≤
      p.since (p.station 0).aq.meters[(1 : Fin 2)].armedAt ∧
    p.Works 0 (stepOf (.measure m)) (.measure m) ∧ m.gathering = .meter := by decide

/-- FM1 of station 0 CLOSING on input 0, FM0 idle. -/
def closing : Part :=
  one (fun x => withAq (fun a =>
    { a with meters := put a.meters 1 { Meter.reset with state := .closing, shown := .armed, gate := 10 } })
    (busy (.measure { measureOf (.freq 1 0 10) 0 0 with gathering := .meter }) x)) 30

theorem test_meets_InputsAndMetersCount_closing :
    closing.Runs ∧ (closing.station 0).walker.state ≠ .off ∧
    (closing.station 0).aq.meters[(1 : Fin 2)].state = .closing ∧
    (closing.station 0).aq.inputs[(closing.station 0).aq.meters[(1 : Fin 2)].input].level = false ∧
    (closing.station 0).aq.meters[(1 : Fin 2) + 1].state = .idle := by decide

/-- R142: FM0's closing edge on input 0 completes its MEASURE, whose chained MEASURE arms FM1 on that input: FM1
stays ARMED. -/
theorem test_armed_in_the_closing_event :
    let p := one fun x => withAq (fun a =>
        { a with meters := put a.meters 0 { Meter.reset with state := .closing, shown := .armed, gate := 10 } })
      (busy (.measure { measureOf (.freq 0 0 10) 0 0 with gathering := .meter })
        { x with walker := { x.walker with position := 1 } })
    let cell : List Host.Cell :=
      [(Config.cell 0 1, 1), (Config.cell 0 1 + 1, 0x30), (Config.cell 0 1 + 4, 3), (Config.cell 0 1 + 5, 1),
       (Config.cell 0 1 + 8, 10), (Config.cell 0 1 + 35, 1)]
    let q : Part := { p with mem := Memory.ofCells cell }
    ((q.inputEdge 0 0 5).station 0).aq.meters[(1 : Fin 2)].state = .armed ∧
    ((q.inputEdge 0 0 5).station 0).aq.meters[(0 : Fin 2)].state = .idle := by decide

theorem test_meets_LampHeadIsScanned :
    let p := one (withAq fun a => { a with head := { a.head with pending := true } })
    let q := one (withAq fun a => { a with head := { a.head with scanning := true, rows := 8, row := 7, columns := 8 } })
    p.Runs ∧ p.AtRest 0 ∧ (p.station 0).aq.head.pending = true ∧ q.Runs ∧
    (q.station 0).aq.head.scanning = true ∧ (q.station 0).aq.head.rows ≤ (q.station 0).aq.head.row + 1 ∧
    LampCell.zero.lit = false ∧ ({ LampCell.zero with lit := true }).lit = true := by decide

theorem test_meets_LampHeadIsScanned_cells :
    let h := { Monitors.reset.head with onLevel := 2, offLevel := 1 }
    LampCell.zero.lit = false ∧ h.onLevel ≤ (2 : Byte).toNat ∧ (1 : Byte).toNat < h.onLevel ∧
    ({ LampCell.zero with lit := true, onsetSeen := true }).onsetSeen = true ∧ (1 : Byte).toNat ≤ h.offLevel ∧
    ({ LampCell.zero with transitions := 65535 }.update h 2 9).transitions = 65535 ∧
    (({ LampCell.zero with onsetSeen := true, onset := 5 }).update h 2 9).blink = 4 := by decide

/-- A MEASURE of lamp cell (1, 2) held for the identity read of a head of 2 rows and 3 columns. -/
def lampHeld (r c : Nat) : Part :=
  one fun x => withAq (fun a => { a with head := { a.head with pending := true, rows := 2, columns := 3 } })
    (busy (.measureHeld (measureOf (.lamp r c .blink) 0 0).params) x)

theorem test_meets_LampHeadIsScanned_held :
    let m := (measureOf (.lamp 1 2 .blink) 0 0).params
    (lampHeld 1 2).Runs ∧ ((lampHeld 1 2).station 0).aq.head.pending = true ∧
    (lampHeld 1 2).Works 0 (stepOf (.measureHeld m)) (.measureHeld m) ∧ m.source = .lamp 1 2 .blink ∧
    1 < ((lampHeld 1 2).station 0).aq.head.rows ∧ 2 < ((lampHeld 1 2).station 0).aq.head.columns ∧
    (lampHeld 1 2).instantCount 0 m.source = some 0 ∧ ((lampHeld 2 0).station 0).aq.head.rows ≤ 2 ∧
    ((lampHeld 0 3).station 0).aq.head.columns ≤ 3 ∧ (0x4B : Byte) ≠ 0x4C := by decide

/-- R148: the row 7 of a head lights its cell 56, whose record is written, and leaves cell 57 as it was. -/
theorem test_lamp_row_writes_record :
    let h := { Monitors.reset.head with scanning := true, rows := 8, row := 7, columns := 2, onLevel := 2 }
    let p := one (withAq fun a => { a with head := h }) 9
    let q := p.rowUpdate 0 ⟨#[2, 0, 0, 0, 0, 0, 0, 0], rfl⟩
    p.mem.wf = true ∧ q.mem.readLE (Config.lampRecord 0 56) 8 = 0x0102000000090001 ∧
    (q.station 0).aq.head.cells[(57 : Fin 64)] = h.cells[(57 : Fin 64)] := by decide

/-! The panel -/

theorem test_meets_KeysAnswerPrompts :
    let p := prompted promptOf 250
    let n := prompted (noticeEntry 0 .jammed) 250
    let early := prompted promptOf 249
    p.Runs ∧ p.panel.keys[keyNumber .yes] = false ∧ p.panel.keys[keyNumber .no] = false ∧
    p.panel.keys[keyNumber .stop] = false ∧ p.panel.keys[keyNumber .again] = false ∧
    p.panel.showing = some promptOf ∧ 250 ≤ p.since p.panel.showTime ∧ promptOf.notice = none ∧
    promptOf.rerun = false ∧ (p.station promptOf.station).walker.rerun = none ∧
    p.repeatAllowed promptOf = false ∧ n.panel.showing = some (noticeEntry 0 .jammed) ∧
    (noticeEntry 0 .jammed).notice.isSome = true ∧ Part.reset.panel.showing = none ∧
    early.since early.panel.showTime < 250 ∧
    (Part.reset.setPanel fun c => { c with keys := put c.keys 0 true }).panel.keys[keyNumber .yes] = true ∧
    p.config.panelDebounce ≤ p.panel.keyRaw[keyNumber .yes] ∧
    n.config.panelDebounce ≤ n.panel.keyRaw[keyNumber .stop] ∧
    Part.reset.panel.keyRaw[keyNumber .yes] < Part.reset.config.panelDebounce ∧
    (p.setPanel fun c => { c with keys := put c.keys 0 true }).config.panelDebounce ≤
      (p.setPanel fun c => { c with keys := put c.keys 0 true }).panel.keyRaw[keyNumber .yes] := by
  decide

/-- A prompt whose REPEAT of the DONE WAIT before it is honoured, and the same with its re-run in flight. -/
def repeatable : PanelEntry := { promptOf with repeatOffset := 1 }

theorem test_meets_KeysAnswerPrompts_repeat :
    let p := (prompted repeatable 250).poke16 (Config.cell 0 0) 0x0304
    let r := prompted { repeatable with rerun := true } 250
    p.Runs ∧ p.panel.showing = some repeatable ∧ p.repeatAllowed repeatable = true ∧
    r.Runs ∧ r.panel.showing = some { repeatable with rerun := true } ∧ 250 ≤ r.since r.panel.showTime ∧
    p.mem.wf = true ∧ p.panel.queue = [] ∧ repeatable.notice = none ∧ r.mem.wf = true ∧ r.panel.queue = [] ∧
    (rerunning.station 0).walker.rerun = some (stepOf (.wait 1)) := by
  decide

/-- R46: the re-take of a DONE WAIT of 1 ms makes the cell ACTIVE with the sequence it had, and runs it beside the
prompt; the position stands. -/
theorem test_rerun_take :
    let p := (((prompted repeatable 250).poke16 (Config.cell 0 0) 0x0304).poke16 (Config.cell 0 0 + 50) 7).poke32
      (Config.cell 0 0 + 4) 1
    let q := p.rerunTake repeatable
    q.cellState 0 0 = cellActive ∧ q.u16 (Config.cell 0 0 + 50) = 7 ∧
    (q.station 0).walker.rerun = some { stepOf (.wait 1) with kind := 3, params := 1, takeTime := 250 } ∧
    (q.station 0).walker.position = (p.station 0).walker.position ∧
    q.panel.showing = some { repeatable with rerun := true } := by decide

theorem test_meets_PanelTimersExpire :
    let p := prompted { promptOf with remaining := some 0 } 200
    let n : Part := { prompted (noticeEntry 0 .jammed) 5000 with
      panel := { Panel.reset with showing := some (noticeEntry 0 .jammed), beepTime := 5000 } }
    let b := (one id 100).setPanel fun c => { c with buzzerEnd := some 100 }
    p.Runs ∧ p.panel.showing = some { promptOf with remaining := some 0 } ∧
    0 < p.since p.panel.showTime ∧ p.since p.panel.showTime % 200 = 0 ∧
    n.panel.showing = some (noticeEntry 0 .jammed) ∧ (noticeEntry 0 .jammed).notice.isSome = true ∧
    n.reached n.panel.beepTime = true ∧ b.Runs ∧ b.panel.buzzerEnd = some 100 ∧ b.reached 100 = true := by
  decide

/-- A text of 48 bytes: "RUN", a marker of field 2, and spaces. -/
def markedText : List Byte := [0x52, 0x55, 0x4E, 0x1B, 0x02] ++ List.replicate 43 0x20

theorem test_meets_PanelTimersExpire_text :
    markedText.length = 48 ∧ (∀ code cs, (fun _ : Byte => some [0x41#8]) code = some cs → cs ≠ []) ∧
    (∀ b ∈ List.replicate 48 (0x20 : Byte), b ≠ 0x1B) ∧ (List.replicate 48 (0x20 : Byte)).length = 48 ∧
    markedText = [0x52, 0x55, 0x4E] ++ 0x1B :: (0x02 :: List.replicate 43 0x20) ∧
    (∀ b ∈ ([0x52, 0x55, 0x4E] : List Byte), b ≠ 0x1B) ∧ 3 % 24 ≠ 23 ∧
    Part.reset.fieldFor (some 0) 0x02 = some [0x20, 0x20, 0x20, 0x20, 0x30] ∧
    Part.reset.fieldFor (some 3) 0x01 = some [0x33] ∧ Part.reset.fieldFor (some 0) 0x05 = none := by
  refine ⟨by decide, fun _ cs h => ?_, by decide, by decide, by decide, by decide, by decide, by decide, by decide,
    by decide⟩
  cases h; decide

/-- A marker at the last place of line 1; figures each field shows. -/
theorem test_meets_PanelTimersExpire_fields :
    (List.replicate 23 (0x20 : Byte) ++ 0x1B :: List.replicate 24 0x20).length = 48 ∧
    (List.replicate 23 (0x20 : Byte)).length % 24 = 23 ∧ (∀ b ∈ List.replicate 23 (0x20 : Byte), b ≠ 0x1B) ∧
    (Part.reset.station 0).fx.code = 63 ∧ ((one (withFx fun f => { f with code := 62 })).station 0).fx.code ≠ 63 ∧
    (Part.reset.station 0).fx.captured = none ∧ ((fixtureRun .clamped).station 0).fx.captured = some 5 ∧
    (Part.reset.station 0).st.lv[(0 : Fin 4)].present = 65535 ∧
    ((one (stimulated 20)).station 0).st.lv[(0 : Fin 4)].present ≠ 65535 ∧
    (Part.reset.station 0).walker.lastUnit = 0 ∧ (Part.reset.station 0).walker.lastValue = (0 : Nat) ∧
    ((one fun x => { x with walker := { x.walker with lastValue := -5 } }).station 0).walker.lastValue =
      -((5 : Nat) : Int) := by decide

/-- R189, R190: the run number shows over five characters from its marker on. -/
theorem test_marker_shows_run_number :
    renderText (({ one (runIn { openRun 1 with number := 42 }) with rackTime := 1 } : Part).fieldFor (some 0))
      markedText = [0x52, 0x55, 0x4E, 0x20, 0x20, 0x20, 0x34, 0x32] ++ List.replicate 40 0x20 := by decide

theorem test_meets_PanelQueueKeepsClasses :
    [{ promptOf with urgent := true }, promptOf].Pairwise (fun a b => a.urgent = false → b.urgent = false) ∧
    (Part.reset.setPanel fun c => { c with queue := [promptOf] }).panel.queue = [promptOf] ∧
    Part.reset.panel.queue = [] ∧ Part.reset.panel.showing = none ∧
    (prompted promptOf 0).panel.showing = some promptOf ∧ (noticeEntry 1 .jammed).notice.isSome = true ∧
    promptOf.notice = none ∧ promptOf.urgent = false ∧ (noticeEntry 1 .jammed).urgent = true := by decide

theorem test_meets_PanelQueueKeepsClasses_published :
    let p := (prompted promptOf 0).setPanel fun c => { c with queue := [{ promptOf with remaining := some 7 }] }
    let spaces := List.replicate 48 (0x20 : Byte)
    p.mem.wf = true ∧ p.panel.showing = some promptOf ∧ p.panel.queue[0]? = some { promptOf with remaining := some 7 } ∧
    p.panel.queue[1]? = none ∧ promptOf.remaining = none ∧ spaces.length ≤ 48 ∧ Part.reset.panel.showing = none ∧
    (Part.reset.setPanel fun c => { c with image := some spaces }).panel.image = some spaces ∧
    Panel.reset.image ≠ some spaces ∧ ({ RackConfig.reset with idleSlot := 255 }).idleSlot = 255 ∧
    ({ RackConfig.reset with idleSlot := 63 }).idleSlot ≠ 255 := by decide

set_option maxRecDepth 8000 in
/-- R175, R191: a panel that comes to show nothing writes the idle text, its fields as spaces, and an empty showing
entry record. -/
theorem test_idle_text_shows :
    let p := ((prompted promptOf 0).poke8 0x100 0x41).poke8 0x101 1
    let q := { p with config := { p.config with idleSlot := 0 } }.endShowing
    q.mem.read Config.displayImage = 0x41 ∧ q.mem.read (Config.displayImage + 1) = 0x20 ∧
    q.mem.read Config.showingRecord = 255 ∧ q.mem.read (Config.showingRecord + 8) = 0 := by decide

/-- R183: a notice preempts a NORMAL prompt, which goes before the NORMAL one that waits. -/
theorem test_notice_preempts :
    let p := (prompted promptOf 0).setPanel fun c => { c with queue := [{ promptOf with station := 2 }] }
    let q := p.placeEntry (noticeEntry 1 .jammed)
    q.panel.showing = some (noticeEntry 1 .jammed) ∧
    q.panel.queue = [promptOf, { promptOf with station := 2 }] := by decide

/-! Judgement -/

theorem test_meets_ScalingRoundsAway :
    Part.reset.calibration 0 8 = some { unity with gain := 0 } ∧ ownScale 0 9 = some { unity with unit := 9, gain := 0 } ∧
    unity.gain = 65536 ∧ ({ unity with gain := 0 }).gain = 0 ∧
    2 * |65536 * (scaled { unity with gain := 32768 } 1 - unity.base) - 1 * 32768| = 65536 ∧
    262080 ≤ 4095 * 2 ^ 6 ∧ 4095 ≤ 4095 * 2 ^ 0 ∧ [7, 8][(⟨1, false, true, false⟩ : Field).offset]? = some 8 ∧
    [7, 8][(⟨0, true, true, false⟩ : Field).offset + 1]? = some 8 := by decide

theorem test_meets_EvaluationsStayInScale :
    inScale (-999999999) = true ∧ inScale 999999999 = true ∧ inScale 1000000000 = false ∧
    (evaluate unity (.abs 0 0) Stimulus.park 999999999).saturated = false ∧
    (evaluate unity (.track (.pg 0) 1024 0 0) Stimulus.park 0).saturated = false := by decide

theorem test_meets_AttemptsAreClassified :
    windowParams 0 = some (.abs 0 0) ∧
    (evaluate unity (.abs 0 0) Stimulus.park 1000000000).saturated = true ∧
    (evaluate unity (.abs 0 0) Stimulus.park (-1)).value < (evaluate unity (.abs 0 0) Stimulus.park (-1)).lower ∧
    (evaluate unity (.abs 0 0) Stimulus.park 1).upper < (evaluate unity (.abs 0 0) Stimulus.park 1).value ∧
    (evaluate unity (.abs 0 0) Stimulus.park 0).cls = .inWindow := by decide

end Sys2Proof.Tests
end

