-- ==== Sys2Proof/Proofs/EventFrame.lean ====
section
/-! What the operations of the running part can do. An operation of station `i` changes memory (keeping its canonical
form), attention causes, panel, converter and that station's column with its marks; an event of the part changes the
same, at any station. One lemma per operation, in the order of their definitions; every law about what no event moves
(ATTNMASK, the canonical form, the other stations) follows from these. -/

namespace Sys2Proof.Machine

/-! ### The two frames -/

theorem RackStands.trans {p q r : Part} (h : p.RackStands q) (h' : q.RackStands r) : p.RackStands r := by
  unfold Part.RackStands at *; rw [h', h]

/-- What an event of the running part can change. -/
structure Part.Event (p q : Part) : Prop where
  stands : p.RackStands q
  canonical : p.mem.wf = true → q.mem.wf = true

/-- What an operation of station `i` can change. -/
structure Part.Local (i : StationId) (p q : Part) : Prop where
  stands : p.RackStands q
  canonical : p.mem.wf = true → q.mem.wf = true
  others : p.OthersStand q i

namespace Part.Event

theorem refl (p : Part) : Part.Event p p := ⟨rfl, id⟩

theorem trans {p q r : Part} (h : Part.Event p q) (h' : Part.Event q r) : Part.Event p r :=
  ⟨RackStands.trans h.stands h'.stands, fun hw => h'.canonical (h.canonical hw)⟩

theorem attnMask {p q : Part} (h : Part.Event p q) : q.attnMask = p.attnMask := by rw [h.stands]

end Part.Event

namespace Part.Local

variable {i : StationId} {p q r : Part}

theorem refl (i : StationId) (p : Part) : Part.Local i p p := ⟨rfl, id, fun _ _ => rfl⟩

theorem trans (h : Part.Local i p q) (h' : Part.Local i q r) : Part.Local i p r :=
  ⟨RackStands.trans h.stands h'.stands, fun hw => h'.canonical (h.canonical hw),
    fun j hj => (h'.others j hj).trans (h.others j hj)⟩

theorem event (h : Part.Local i p q) : Part.Event p q := ⟨h.stands, h.canonical⟩

/-! ### Updates -/

theorem memory (h : Part.Local i p q) (m : Memory) (hm : q.mem.wf = true → m.wf = true) :
    Part.Local i p { q with mem := m } := h.trans ⟨rfl, hm, fun _ _ => rfl⟩

theorem zero (h : Part.Local i p q) (x n : Nat) : Part.Local i p { q with mem := q.mem.zero x n } :=
  h.memory _ (zero_wf _ _)

theorem poke8 (h : Part.Local i p q) (x : Nat) (v : Byte) : Part.Local i p (q.poke8 x v) :=
  h.memory _ (write_wf _ _)

theorem poke16 (h : Part.Local i p q) (x v : Nat) : Part.Local i p (q.poke16 x v) :=
  h.memory _ (writeLE_wf _ _ _)

theorem poke32 (h : Part.Local i p q) (x v : Nat) : Part.Local i p (q.poke32 x v) :=
  h.memory _ (writeLE_wf _ _ _)

theorem setCellState (h : Part.Local i p q) (j : StationId) (c : CellId) (code : Byte) :
    Part.Local i p (q.setCellState j c code) := h.poke8 _ _

theorem modify (h : Part.Local i p q) (f : Station → Station) : Part.Local i p (q.modify i f) :=
  h.trans ⟨rfl, id, fun _ hj => modify_station_other _ _ _ _ hj.symm⟩

theorem setWalker (h : Part.Local i p q) (f : Walker → Walker) : Part.Local i p (q.setWalker i f) := h.modify _
theorem setFx (h : Part.Local i p q) (f : Fixture → Fixture) : Part.Local i p (q.setFx i f) := h.modify _
theorem setPs (h : Part.Local i p q) (f : Supply → Supply) : Part.Local i p (q.setPs i f) := h.modify _
theorem setSt (h : Part.Local i p q) (f : Stimulus → Stimulus) : Part.Local i p (q.setSt i f) := h.modify _
theorem setLc (h : Part.Local i p q) (f : Line → Line) : Part.Local i p (q.setLc i f) := h.modify _
theorem setAq (h : Part.Local i p q) (f : Monitors → Monitors) : Part.Local i p (q.setAq i f) := h.modify _
theorem setWork (h : Part.Local i p q) (k : Work) : Part.Local i p (q.setWork i k) := h.modify _
theorem setRun (h : Part.Local i p q) (f : RunRecord → RunRecord) : Part.Local i p (q.setRun i f) := h.modify _
theorem setStationState (h : Part.Local i p q) (st : StationState) : Part.Local i p (q.setStationState i st) :=
  h.modify _
theorem setFrame (h : Part.Local i p q) (f : Frame) : Part.Local i p (q.setFrame i f) := h.modify _

theorem mark (h : Part.Local i p q) (j : StationId) (w : BitVec 64) : Part.Local i p (q.mark j w) :=
  h.trans ⟨rfl, id, fun _ _ => rfl⟩

theorem passing (h : Part.Local i p q) (j : StationId) (f : Station → Station) :
    Part.Local i p (q.passing j f) := h.mark _ _

theorem setPanel (h : Part.Local i p q) (f : Panel → Panel) : Part.Local i p (q.setPanel f) :=
  h.trans ⟨rfl, id, fun _ _ => rfl⟩

theorem setConv (h : Part.Local i p q) (f : Converter → Converter) : Part.Local i p (q.setConv f) :=
  h.trans ⟨rfl, id, fun _ _ => rfl⟩

theorem raise (h : Part.Local i p q) (c : Cause) : Part.Local i p (q.raise c) :=
  h.trans ⟨rfl, id, fun _ _ => rfl⟩

/-- An operation carried out once for each thing of a list. -/
theorem foldl {α : Type} {f : Part → α → Part} (h : Part.Local i p q) (l : List α)
    (hf : ∀ q a, Part.Local i q (f q a)) : Part.Local i p (l.foldl f q) := by
  induction l generalizing q with
  | nil => exact h
  | cons a l ih => exact ih (h.trans (hf q a))

end Part.Local

/-- An event carried to the stations in their order. -/
theorem eachStation_event {f : StationId → Part → Part} (p : Part) (hf : ∀ i q, Part.Event q (f i q)) :
    Part.Event p (p.eachStation f) := by
  have fold : ∀ (l : List StationId) (q : Part), Part.Event q (l.foldl (fun q i => f i q) q) := by
    intro l
    induction l with
    | nil => exact Part.Event.refl
    | cons i l ih => exact fun q => (hf i q).trans (ih (f i q))
  exact fold stationIds p

/-! ### The panel -/

section Panel
variable (i : StationId) (p : Part)

theorem showText_local (cs : List Byte) : Part.Local i p (p.showText cs) := by
  have h := (Part.Local.refl i p).setPanel fun c => { c with display := cs, image := some cs }
  unfold Part.showText
  dsimp only
  split
  · exact h
  · exact h.memory _ (writeBytes_wf _ _)

theorem publishPanel_local : Part.Local i p p.publishPanel :=
  (Part.Local.refl i p).memory _ fun h => writeWords_wf _ _ (writeWords_wf _ _ h)

theorem publishFigures_local : Part.Local i p p.publishFigures :=
  (Part.Local.refl i p).memory _ (writeWords_wf _ _)

theorem beep_local (n : Nat) : Part.Local i p (p.beep n) := (Part.Local.refl i p).setPanel _

theorem showEntry_local (e : PanelEntry) : Part.Local i p (p.showEntry e) := by
  have shown : ∀ f cs, Part.Local i p ((p.setPanel f).showText cs).publishPanel := fun f cs =>
    (((Part.Local.refl i p).setPanel f).trans (showText_local i _ cs)).trans (publishPanel_local i _)
  unfold Part.showEntry
  dsimp only
  split
  · exact (shown _ _).trans (beep_local i _ _)
  · split
    · exact (shown _ _).trans (beep_local i _ _)
    · exact shown _ _

theorem showIdle_local : Part.Local i p p.showIdle := showText_local i p _

theorem endShowing_local : Part.Local i p p.endShowing := by
  have h := (Part.Local.refl i p).setPanel
  unfold Part.endShowing
  split
  · exact (h _).trans (showEntry_local i _ _)
  · exact ((h _).trans (showIdle_local i _)).trans (publishPanel_local i _)

theorem placeEntry_local (e : PanelEntry) : Part.Local i p (p.placeEntry e) := by
  have h := (Part.Local.refl i p).setPanel
  unfold Part.placeEntry
  split
  · exact showEntry_local i p e
  · split
    · exact (h _).trans (showEntry_local i _ _)
    · exact (h _).trans (publishPanel_local i _)

theorem dropQueued_local (pick : PanelEntry → Bool) : Part.Local i p (p.dropQueued pick) := by
  unfold Part.dropQueued
  split
  · exact ((Part.Local.refl i p).setPanel _).trans (publishPanel_local i _)
  · exact .refl i p

theorem withdrawPrompt_local (j : StationId) (b : Bool) : Part.Local i p (p.withdrawPrompt j b) := by
  unfold Part.withdrawPrompt
  split
  · split
    · split
      · exact (Part.Local.refl i p).setPanel _
      · exact endShowing_local i p
    · exact dropQueued_local i p _
  · exact dropQueued_local i p _

theorem removeNotice_local (j : StationId) : Part.Local i p (p.removeNotice j) := by
  unfold Part.removeNotice
  split
  · split
    · exact endShowing_local i p
    · exact dropQueued_local i p _
  · exact dropQueued_local i p _

theorem changePrompt_local (j : StationId) (f : PanelEntry → PanelEntry) :
    Part.Local i p (p.changePrompt j f) :=
  ((Part.Local.refl i p).setPanel _).trans (publishPanel_local i _)

end Panel

/-! ### The line -/

section Line
variable (p : Part) (i : StationId)

theorem overrun_local (e : Fin 16) : Part.Local i p (p.overrun i e) := ((Part.Local.refl i p).setLc _).poke32 _ _

theorem joinDue_local (e : Fin 16) (key : Time) : Part.Local i p (p.joinDue i e key) := by
  unfold Part.joinDue
  split
  · exact overrun_local p i e
  · exact (Part.Local.refl i p).setLc _

theorem fallDue_local (e : Fin 16) : Part.Local i p (p.fallDue i e) := by
  unfold Part.fallDue
  dsimp only
  split
  · exact .refl i p
  · exact (joinDue_local p i e _).setLc _

theorem fallDueAll_local : Part.Local i p (p.fallDueAll i) := by
  refine (Part.Local.refl i p).foldl _ fun q e => ?_
  split
  · exact fallDue_local q i e
  · exact .refl i q

theorem startFrame_local : Part.Local i p (p.startFrame i) := by
  unfold Part.startFrame
  dsimp only
  split
  · exact ((Part.Local.refl i p).setLc _).setWalker _
  · exact .refl i p

theorem loadSchedule_local (t : Vector Entry 16) : Part.Local i p (p.loadSchedule i t) := by
  unfold Part.loadSchedule
  exact ((((Part.Local.refl i p).setLc _).zero _ _).trans (fallDueAll_local _ i)).setLc _

theorem recordFrame_local (f : Frame) (result : FrameResult) : Part.Local i p (p.recordFrame i f result) := by
  have time : ∀ q : Part, Part.Local i q
      ((if f.fetch then q.writeReceptionData i f.entry else q).writeReceptionTime i f.entry) := fun q => by
    split
    · exact ((Part.Local.refl i q).memory _ (writeBytes_wf _ _)).poke32 _ _
    · exact (Part.Local.refl i q).poke32 _ _
  have figures : ∀ q : Part, Part.Local i q
      ((q.writeReceptionCounts i f.entry).writeReceptionState i f.entry) := fun q =>
    ((Part.Local.refl i q).poke32 _ _).poke32 _ _
  have sequence : ∀ q : Part, Part.Local i q
      (if f.fetch then q.writeReceptionSequence i f.entry else q) := fun q => by
    split
    · exact (Part.Local.refl i q).poke32 _ _
    · exact .refl i q
  unfold Part.recordFrame
  refine .trans ?_ (sequence _)
  refine .trans ?_ (figures _)
  split
  · exact ((Part.Local.refl i p).setLc _).trans (time _)
  · exact (Part.Local.refl i p).setLc _

theorem endFrameRecord_local (f : Frame) (result : FrameResult) :
    Part.Local i p (p.endFrameRecord i f result) := (recordFrame_local p i f result).setLc _

theorem afterFrame_local : Part.Local i p (p.afterFrame i) := by
  unfold Part.afterFrame
  dsimp only
  split
  · exact (Part.Local.refl i p).setLc _
  · split
    · exact loadSchedule_local p i _
    · exact .refl i p

end Line

/-! ### The supply, the acquisition unit and the fixture -/

section Units
variable (p : Part) (i : StationId)

theorem supplyLeave_local (dest : SupplyState) : Part.Local i p (p.supplyLeave i dest) :=
  (Part.Local.refl i p).modify _

theorem supplyOff_local : Part.Local i p (p.supplyOff i) := by
  unfold Part.supplyOff
  split
  · exact .refl i p
  · exact supplyLeave_local p i _

theorem supplyCut_local : Part.Local i p (p.supplyCut i) := by
  unfold Part.supplyCut
  split
  · exact supplyLeave_local p i _
  · exact .refl i p

theorem writeReference_local (high low : Nat) (suspect : Bool) :
    Part.Local i p (p.writeReference high low suspect) := ((Part.Local.refl i p).poke32 _ _).poke32 _ _

theorem endCheck_local (r : RefCheck) : Part.Local i p (p.endCheck r) := by
  have written : ∀ c a b d, Part.Local i p (({ p with conv := c } : Part).writeReference a b d) := fun c a b d =>
    ((Part.Local.refl i p).setConv fun _ => c).trans (writeReference_local _ i a b d)
  unfold Part.endCheck
  dsimp only
  split
  · exact .raise (written _ _ _ _) _
  · exact written _ _ _ _

theorem writeInput_local (k : Fin 8) : Part.Local i p (p.writeInput i k) :=
  ((((Part.Local.refl i p).poke32 _ _).poke32 _ _).poke32 _ _).poke32 _ _

theorem writeInputs_local : Part.Local i p (p.writeInputs i) := by
  unfold Part.writeInputs
  refine .setAq (.foldl (.refl i p) _ fun q k => ?_) _
  split
  · exact writeInput_local q i k
  · exact .refl i q

theorem updateLamp_local (column : Fin 8) (reading : Byte) : Part.Local i p (p.updateLamp i column reading) := by
  unfold Part.updateLamp
  dsimp only
  split
  · split
    · exact .refl i p
    · split
      · exact .refl i p
      · exact (((Part.Local.refl i p).setAq _).poke32 _ _).poke32 _ _
  · exact .refl i p

theorem clearContacts_local : Part.Local i p (p.clearContacts i) :=
  (Part.Local.refl i p).memory _ (writeBytes_wf _ _)

theorem startPin_local (c : Calibration) (pin : Nat) : Part.Local i p (p.startPin i c pin) :=
  ((Part.Local.refl i p).setFx _).setConv _

end Units

/-! ### The attempt loop -/

section Attempts
variable (p : Part) (i : StationId)

theorem traceAppend_local (v : Int) : Part.Local i p (p.traceAppend i v) := by
  unfold Part.traceAppend
  dsimp only
  split
  · exact (((Part.Local.refl i p).poke32 _ _).setWalker _).mark _ _
  · exact ((Part.Local.refl i p).setWalker _).mark _ _

theorem settleLoop_local (w : MeasureWork) (traced : Bool) (a : Attempt) :
    Part.Local i p (p.settleLoop i w traced a).1 := by
  unfold Part.settleLoop
  cases traced
  · exact (Part.Local.refl i p).setWork _
  · exact (traceAppend_local p i _).setWork _

theorem beginGathering_local (w : MeasureWork) : Part.Local i p (p.beginGathering i w) := by
  have h := (Part.Local.refl i p).setWork
  unfold Part.beginGathering
  split
  · exact (h _).setConv _
  · exact (h _).setAq _
  · exact (h _).setAq _
  · exact (h _).setAq _
  all_goals exact h _

theorem startAttempt_local (w : MeasureWork) (traced : Bool) :
    Part.Local i p (p.startAttempt i w traced).1 := by
  unfold Part.startAttempt
  dsimp only
  split
  · exact settleLoop_local p i _ _ _
  · exact beginGathering_local p i _

theorem arrive_local (w : MeasureWork) (traced : Bool) (a : Attempt) :
    Part.Local i p (p.arrive i w traced a).1 := by
  have h := settleLoop_local p i w traced a
  unfold Part.arrive
  split
  · rename_i e
    rwa [e] at h
  · rename_i e
    rw [e] at h
    split
    · split
      · exact h.trans (startAttempt_local _ i _ _)
      · exact h
    · exact h

end Attempts

/-! ### The walker: cells, takes and the start of a step -/

section Walker
variable (p : Part) (i : StationId)

theorem writeResult_local (t : Step) (r : Result) : Part.Local i p (p.writeResult i t r) :=
  (((((Part.Local.refl i p).poke32 _ _).poke32 _ _).poke32 _ _).poke16 _ _).poke32 _ _

theorem writeOpening_local (c : CellId) (run seq : BitVec 16) : Part.Local i p (p.writeOpening i c run seq) :=
  ((((Part.Local.refl i p).memory _ (zero_wf _ _)).poke16 _ _).poke16 _ _).poke32 _ _

theorem enterStopped_local (r : Reason) : Part.Local i p (p.enterStopped i r) :=
  ((Part.Local.refl i p).setWalker _).raise _

theorem takeStep_local : Part.Local i p (p.takeStep i).1 := by
  unfold Part.takeStep
  dsimp only
  exact .setWalker (.trans (.setCellState (.refl i p) _ _ _) (writeOpening_local _ i _ _ _)) _

theorem beginWait_local (t : Step) : Part.Local i p (p.beginWait i t) :=
  ((Part.Local.refl i p).setCellState _ _ _).setStationState _

theorem endWait_local (t : Step) : Part.Local i p (p.endWait i t) :=
  ((Part.Local.refl i p).setCellState _ _ _).setStationState _

theorem startBegin_local (t : Step) : Part.Local i p (p.startBegin i t).1 := by
  have h := Part.Local.refl i p
  unfold Part.startBegin
  dsimp only
  split
  · exact h
  · repeat' split
    all_goals dsimp only
    · exact h
    · exact h
    · exact h
    · exact .poke16 (.poke16 (.setRun (.passing h _ _) _) _ _) _ _

theorem closeRun_local : Part.Local i p (p.closeRun i) := by
  unfold Part.closeRun
  split
  · exact ((Part.Local.refl i p).setRun _).raise _
  · exact .refl i p

theorem beginRelease_local : Part.Local i p (p.beginRelease i).1 := by
  unfold Part.beginRelease
  split
  all_goals dsimp only
  · exact .refl i p
  · exact (Part.Local.refl i p).setFx _
  · exact .refl i p

theorem startEnd_local (t : Step) : Part.Local i p (p.startEnd i t).1 := by
  have ended : ∀ f c, Part.Local i p ((p.setWalker i f).raise c) := fun f c =>
    ((Part.Local.refl i p).setWalker f).raise c
  have released : ∀ f c, Part.Local i p (((p.setWalker i f).raise c).beginRelease i).1 := fun f c =>
    (ended f c).trans (beginRelease_local _ i)
  unfold Part.startEnd
  dsimp only
  split
  · split
    · split
      · split <;> rename_i e <;> have h := congrArg (fun o => Part.Local i p o.1) e
        · exact h.mp (released _ _)
        · exact Part.Local.setWork (h.mp (released _ _)) _
      · exact ended _ _
    · exact ended _ _
  · exact .refl i p

theorem startWait_local (t : Step) : Part.Local i p (p.startWait i t).1 := by
  unfold Part.startWait
  split
  · exact .refl i p
  · exact (Part.Local.refl i p).setWork _

theorem startClamp_local (t : Step) : Part.Local i p (p.startClamp i t).1 := by
  have h := Part.Local.refl i p
  unfold Part.startClamp
  dsimp only
  split
  · exact h
  · repeat' split
    all_goals dsimp only
    · exact h
    · exact h
    · exact h
    · exact h
    · exact (h.setWork _).setFx _
    · exact ((h.setWork _).setFx _).trans (beginWait_local _ i t)

theorem startRelease_local (t : Step) : Part.Local i p (p.startRelease i t).1 := by
  have h := beginRelease_local p i
  unfold Part.startRelease
  split
  · split <;> rename_i e <;> rw [e] at h
    · exact h
    · exact h.setWork _
  · exact .refl i p

theorem startContact_local : Part.Local i p (p.startContact i).1 := by
  have h := Part.Local.refl i p
  unfold Part.startContact
  dsimp only
  repeat' split
  all_goals dsimp only
  · exact h
  · exact h
  · exact h
  · exact h
  · exact ((clearContacts_local p i).setWork _).trans (startPin_local _ i _ _)

theorem startPower_local (t : Step) : Part.Local i p (p.startPower i t).1 := by
  have h := Part.Local.refl i p
  unfold Part.startPower
  dsimp only
  split
  · exact h
  · exact supplyOff_local p i
  · repeat' split
    all_goals dsimp only
    · exact h
    · exact h
    · exact h
    · exact (h.setPs _).setLc _
    · exact ((h.setPs _).setLc _).setWork _

theorem workSet_local (t : Step) (atOnce : Bool) (w : SetWork) : Part.Local i p (p.workSet i t atOnce w).1 := by
  unfold Part.workSet
  split
  · exact .refl i p
  · exact (Part.Local.refl i p).setWork _

theorem startSet_local (t : Step) : Part.Local i p (p.startSet i t).1 := by
  have h := Part.Local.refl i p
  unfold Part.startSet
  dsimp only
  split
  · exact h
  · split
    · exact h
    · split
      · exact ((h.passing _ _).setSt _).trans (workSet_local _ i _ _ _)
      · exact ((h.passing _ _).setSt _).trans (workSet_local _ i _ _ _)
      · dsimp only
        exact h.setSt _
      · dsimp only
        exact h.setSt _

theorem sendStart_local : Part.Local i p (p.sendStart i).1 := by
  unfold Part.sendStart
  dsimp only
  repeat' split
  all_goals dsimp only
  · exact .refl i p
  · exact ((Part.Local.refl i p).setLc _).setWork _
  · exact loadSchedule_local p i _

theorem sendStop_local : Part.Local i p (p.sendStop i).1 := by
  have h := Part.Local.refl i p
  unfold Part.sendStop
  dsimp only
  repeat' split
  all_goals dsimp only
  · exact h
  · exact (h.setLc _).setWork _
  · exact h.setLc _

theorem sendOnce_local (e : Fin 16) : Part.Local i p (p.sendOnce i e).1 := by
  have h := Part.Local.refl i p
  unfold Part.sendOnce
  dsimp only
  repeat' split
  all_goals dsimp only
  · exact h
  · exact ((h.setWork _).trans (joinDue_local _ i _ _)).trans (startFrame_local _ i)
  · exact h

theorem startSend_local (t : Step) : Part.Local i p (p.startSend i t).1 := by
  unfold Part.startSend
  split
  · exact .refl i p
  · split
    · split
      · exact sendStart_local p i
      · exact sendStop_local p i
      · exact sendOnce_local p i _
    · exact .refl i p

theorem admitMeasure_local (t : Step) (q : MeasureParams) : Part.Local i p (p.admitMeasure i t q).1 := by
  have h := Part.Local.refl i p
  unfold Part.admitMeasure
  split
  · dsimp only
    repeat' split
    · exact h.setWork _
    · exact h
    · exact h
    · exact startAttempt_local p i _ _
  all_goals exact startAttempt_local p i _ _

theorem startMeasure_local (t : Step) : Part.Local i p (p.startMeasure i t).1 := by
  unfold Part.startMeasure
  split
  · exact .refl i p
  · exact admitMeasure_local p i t _

theorem startListen_local (t : Step) : Part.Local i p (p.startListen i t).1 := by
  have h := Part.Local.refl i p
  unfold Part.startListen
  dsimp only
  repeat' split
  all_goals dsimp only
  · exact h
  · exact h.setWork _
  · exact h

theorem startPrompt_local (t : Step) : Part.Local i p (p.startPrompt i t).1 := by
  have h := Part.Local.refl i p
  unfold Part.startPrompt
  split
  · exact h
  · dsimp only
    exact ((h.setWork _).trans (placeEntry_local i _ _)).trans (beginWait_local _ i t)

theorem startStep_local (t : Step) : Part.Local i p (p.startStep i t).1 := by
  unfold Part.startStep
  split
  · exact .refl i p
  · exact startBegin_local p i t
  · exact startEnd_local p i t
  · exact startWait_local p i t
  · exact startClamp_local p i t
  · exact startRelease_local p i t
  · exact startContact_local p i
  · exact startPower_local p i t
  · exact startSet_local p i t
  · exact startSend_local p i t
  · exact startMeasure_local p i t
  · exact startListen_local p i t
  · exact startPrompt_local p i t

end Walker

/-! ### The walker: ends of a step, abandonment, faults, halts and CLEAR -/

section StepEnds
variable (p : Part) (i : StationId)

theorem notify_local (t : Step) : Part.Local i p (p.notify i t) := by
  unfold Part.notify
  split
  · exact (Part.Local.refl i p).raise _
  · exact .refl i p

theorem completeMain_local (t : Step) (r : Result) : Part.Local i p (p.completeMain i t r) :=
  (((writeResult_local p i t r).setCellState _ _ _).setWalker _).trans (notify_local _ i t)

theorem becomeIdle_local : Part.Local i p (p.becomeIdle i) := (Part.Local.refl i p).setWalker _

theorem examine_local (n : Nat) : Part.Local i p (Part.examine n p i) := by
  induction n generalizing p with
  | zero => exact becomeIdle_local p i
  | succ n ih =>
    have taken := (takeStep_local p i).trans (startStep_local _ i (p.takeStep i).2)
    unfold Part.examine
    dsimp only
    split
    · exact enterStopped_local p i _
    · split
      · split <;> rename_i e <;> rw [e] at taken
        · exact taken
        · split
          · exact (taken.trans (completeMain_local _ i _ _)).trans (enterStopped_local _ i _)
          · exact (taken.trans (completeMain_local _ i _ _)).trans (ih _)
      · exact becomeIdle_local p i

theorem chain_local : Part.Local i p (p.chain i) := examine_local p i 33

theorem completeStep_local (r : Result) : Part.Local i p (p.completeStep i r) := by
  unfold Part.completeStep
  split
  · exact .refl i p
  · dsimp only
    split
    · exact (completeMain_local p i _ r).trans (enterStopped_local _ i _)
    · exact (completeMain_local p i _ r).trans (chain_local _ i)

theorem rerunEnd_local (t : Step) (r : Result) : Part.Local i p (p.rerunEnd i t r) :=
  ((((writeResult_local p i t r).setCellState _ _ _).trans (notify_local _ i t)).setWalker _).trans
    (changePrompt_local i _ _ _)

theorem finish_local (r : Result) : Part.Local i p (p.finish i r) := by
  unfold Part.finish
  split
  · exact rerunEnd_local p i _ r
  · exact completeStep_local p i r

/-- The outcome of an operation of the station is concluded at that station. -/
theorem Part.Local.conclude {p : Part} {i : StationId} {o : Part × Option Result} (h : Part.Local i p o.1) :
    Part.Local i p (Part.conclude i o) := by
  obtain ⟨q, _ | r⟩ := o
  · exact h
  · exact h.trans (finish_local q i r)

theorem dropAcquisition_local : Part.Local i p (p.dropAcquisition i) :=
  ((Part.Local.refl i p).setConv _).setAq _

theorem dropWork_local (k : Work) (cause : AbandonCause) : Part.Local i p (p.dropWork i k cause).1 := by
  have h := Part.Local.refl i p
  unfold Part.dropWork
  cases k with dsimp only
  | clamp => exact h.setFx _
  | contact => exact (h.setFx _).setConv _
  | set => exact h.setSt _
  | measure => exact dropAcquisition_local p i
  | prompt => exact withdrawPrompt_local i p i _
  | _ => exact h

theorem abandonCell_local (t : Step) (r : Result) : Part.Local i p (p.abandonCell i t r) :=
  (writeResult_local p i t r).setCellState _ _ _

theorem abandonRerun_local (cause : AbandonCause) : Part.Local i p (p.abandonRerun i cause) := by
  unfold Part.abandonRerun
  split
  · exact .refl i p
  · exact ((dropWork_local p i _ cause).trans (abandonCell_local _ i _ _)).setWalker _

theorem abandonStep_local (cause : AbandonCause) : Part.Local i p (p.abandonStep i cause) := by
  have h := abandonRerun_local p i cause
  unfold Part.abandonStep
  dsimp only
  split
  · exact h
  · exact (h.trans ((dropWork_local _ i _ cause).trans (abandonCell_local _ i _ _))).setWalker _

theorem faultReport_local (r : FaultReason) : Part.Local i p (p.faultReport i r) := by
  unfold Part.faultReport
  split
  · exact .refl i p
  · exact (Part.Local.refl i p).raise _
  all_goals exact (((abandonStep_local p i _).setWalker _).raise _).trans (placeEntry_local i _ _)

theorem halt_local : Part.Local i p (p.halt i) := by
  unfold Part.halt
  split
  · exact .refl i p
  · exact .refl i p
  · exact .refl i p
  all_goals exact ((abandonStep_local p i _).setWalker _).modify _

theorem clearStation_local (faulted : Bool) : Part.Local i p (p.clearStation i faulted) := by
  have h := ((supplyOff_local p i).trans (closeRun_local _ i)).trans (becomeIdle_local _ i)
  cases faulted with
  | false => exact h.trans (chain_local _ i)
  | true => exact (h.trans (removeNotice_local i _ i)).trans (chain_local _ i)

theorem clear_local : Part.Local i p (p.clear i) := by
  unfold Part.clear
  split
  · exact .refl i p
  · exact .refl i p
  · exact .refl i p
  · exact .refl i p
  · exact clearStation_local p i _
  · split
    · exact clearStation_local p i _
    · exact .refl i p

/-- A sweep at one station. -/
theorem sweepStation_local :
    Part.Local i p (if (p.station i).walker.state = .idle then p.chain i else p) := by
  split
  · exact chain_local p i
  · exact .refl i p

theorem sweep_event : Part.Event p p.sweep := eachStation_event p fun i q => (sweepStation_local q i).event

theorem rerunTake_local (e : PanelEntry) : Part.Local e.station p (p.rerunTake e) := by
  have h := Part.Local.refl e.station p
  exact ((((((h.trans (changePrompt_local _ _ _ _)).setCellState _ _ _).trans
    (writeOpening_local _ _ _ _ _)).setWalker _)).trans (startStep_local _ _ _)).conclude

theorem pressRepeat_local (e : PanelEntry) : Part.Local e.station p (p.pressRepeat e) := by
  unfold Part.pressRepeat
  split
  · exact rerunTake_local p e
  · exact beep_local _ p _

end StepEnds

end Sys2Proof.Machine
end

