-- ==== Sys2Proof/Proofs/EventFrame2.lean ====
section
/-! The events of the blocks, of the panel and of the rack, within the frames of an operation and of an event. -/

namespace Sys2Proof.Machine

/-! ### Events of the acquisition unit -/

section Acquisition
variable (p : Part) (i : StationId)

theorem datum_local (g : Gathering) (refFlag : Bool) (judge : MeasureParams → Attempt) :
    Part.Local i p (p.datum i g refFlag judge) := by
  unfold Part.datum
  split
  · split
    · exact (arrive_local p i _ _ _).conclude
    · exact .refl i p
  · exact .refl i p

theorem contactReturn_local (sum : Nat) : Part.Local i p (p.contactReturn i sum) := by
  unfold Part.contactReturn
  split
  · have h : ∀ x v k, Part.Local i p ((p.writeContact i x v).setWork i k) := fun x v k =>
      .setWork (.poke32 (.refl i p) _ _) k
    dsimp only
    split
    · exact (h _ _ _).trans (startPin_local _ i _ _)
    · exact ((h _ _ _).setFx _).trans (finish_local _ i _)
  · exact .refl i p

theorem requestReturn_local (q : Request) : Part.Local i p (p.requestReturn i q) := by
  unfold Part.requestReturn
  split
  · exact contactReturn_local p i _
  · exact datum_local p i _ _ _

theorem takeCode_event (x : SampleInput) (code : Nat) : Part.Event p (p.takeCode x code) := by
  unfold Part.takeCode
  split
  · split
    · exact .refl p
    · dsimp only
      split
      · exact ((Part.Local.refl 0 p).setConv _).event
      · exact (endCheck_local p 0 _).event
  · rename_i j
    split
    · exact .refl p
    · dsimp only
      split
      · exact ((Part.Local.refl j p).setConv _).event
      · exact (((Part.Local.refl j p).setConv _).trans (requestReturn_local _ j _)).event

theorem sampleEnds_event (microvolts : Int) : Part.Event p (p.sampleEnds microvolts) := by
  have grant : ∀ q : Part, Part.Event q (q.setConv Converter.grant) := fun q =>
    ((Part.Local.refl 0 q).setConv _).event
  unfold Part.sampleEnds
  split
  · exact .refl p
  · split
    · exact (takeCode_event p _ _).trans (grant _)
    · exact grant p

theorem meterCloses_local (n : Fin 2) (closed : Option (Nat × Nat × Nat)) :
    Part.Local i p (p.meterCloses i n closed) := by
  unfold Part.meterCloses
  split
  · exact .refl i p
  · exact ((Part.Local.refl i p).mark _ _).trans (datum_local _ i _ _ _)

theorem inputEdge_local (k : Fin 8) (tick : Tick) : Part.Local i p (p.inputEdge i k tick) := by
  unfold Part.inputEdge
  split
  · exact .refl i p
  · dsimp only
    exact .foldl (.setAq (.refl i p) _) _ fun q m => meterCloses_local q i m _

theorem inputReject_local (k : Fin 8) : Part.Local i p (p.inputReject i k) := by
  unfold Part.inputReject
  split
  · exact .refl i p
  · exact (Part.Local.refl i p).setAq _

theorem windowEnds_local : Part.Local i p (p.windowEnds i) := by
  unfold Part.windowEnds
  split
  · split
    · exact ((Part.Local.refl i p).setAq _).trans (datum_local _ i _ _ _)
    · exact .refl i p
  · exact .refl i p

theorem meterExpires_local (n : Fin 2) : Part.Local i p (p.meterExpires i n) := by
  unfold Part.meterExpires
  dsimp only
  split
  · exact (((Part.Local.refl i p).setAq _).mark _ _).trans (datum_local _ i _ _ _)
  · exact .refl i p

theorem identityRead_local (identity : Byte) : Part.Local i p (p.identityRead i identity) := by
  unfold Part.identityRead
  split
  · have h := (Part.Local.refl i p).setAq
    dsimp only
    split
    · split
      · exact (h _).trans (admitMeasure_local _ i _ _).conclude
      · exact h _
    · exact h _
  · exact .refl i p

theorem rowUpdate_local (readings : Vector Byte 8) : Part.Local i p (p.rowUpdate i readings) := by
  unfold Part.rowUpdate
  split
  · exact .setAq (.foldl (.refl i p) _ fun q c => updateLamp_local q i c _) _
  · exact .refl i p

end Acquisition

/-! ### Events of the fixture controllers -/

section Fixtures
variable (p : Part) (i : StationId)

theorem failClamp_local (r : Reason) (value aux : Nat) : Part.Local i p (p.failClamp i r value aux) := by
  unfold Part.failClamp
  split
  · exact finish_local p i _
  · exact .refl i p

theorem reverse_local (r : Reason) : Part.Local i p (p.reverse i r) := by
  unfold Part.reverse
  exact ((Part.Local.refl i p).setFx _).trans (failClamp_local _ i _ _ _)

theorem enterClamped_local (record : Nat) : Part.Local i p (p.enterClamped i record) := by
  have h : Part.Local i p ((p.setFx i Fixture.toClamped).countCycle record) :=
    .poke32 (.setFx (.refl i p) _) _ _
  unfold Part.enterClamped
  dsimp only
  split
  · exact .setWork (.setRun h _) _
  · exact h.setWork _

theorem closedArrival_local : Part.Local i p (p.closedArrival i) := by
  have h := enterClamped_local p i (p.station i).fx.record
  unfold Part.closedArrival
  dsimp only
  split
  · split
    · exact h
    · exact h.trans (finish_local _ i _)
  · exact h.trans (faultReport_local _ i _)

theorem openedArrival_local : Part.Local i p (p.openedArrival i) := by
  have h := (Part.Local.refl i p).setFx Fixture.toOpen
  unfold Part.openedArrival
  dsimp only
  split
  · exact h
  · split
    · exact h.trans (finish_local _ i _)
    · exact h.trans (finish_local _ i _)
    · exact h

theorem guardCut_local : Part.Local i p (p.guardCut i) := by
  unfold Part.guardCut
  split
  · exact (supplyLeave_local p i _).trans (faultReport_local _ i _)
  · exact .refl i p

theorem nestLoss_local : Part.Local i p (p.nestLoss i) := (supplyCut_local p i).trans (faultReport_local _ i _)

theorem handsAccepted_local : Part.Local i p (p.handsAccepted i) := by
  have h := (Part.Local.refl i p).setFx
  unfold Part.handsAccepted
  dsimp only
  split
  · exact h _
  · split
    · exact (h _).trans (endWait_local _ i _)
    · exact h _

theorem armingButton_local (held : Bool) : Part.Local i p (p.armingButton i held) := by
  have h := (Part.Local.refl i p).setFx
  unfold Part.armingButton
  dsimp only
  split
  · exact (h _).trans (handsAccepted_local _ i)
  · exact h _

theorem fixtureOutcome_local (input : FixtureInput) (level : Bool) :
    Part.Local i p (p.fixtureOutcome i input level) := by
  have twoHand : ∀ b : Bool, Part.Local i p (if b then p.reverse i .operatorRelease else p) := fun b => by
    cases b
    · exact .refl i p
    · exact reverse_local p i _
  unfold Part.fixtureOutcome
  dsimp only
  split
  · exact armingButton_local p i _
  · exact armingButton_local p i _
  · exact ((Part.Local.refl i p).setFx _).trans (failClamp_local _ i _ _ _)
  · exact closedArrival_local p i
  · exact twoHand _
  · exact twoHand _
  · exact reverse_local p i _
  · exact guardCut_local p i
  · exact nestLoss_local p i
  · exact openedArrival_local p i
  · exact openedArrival_local p i
  · exact .refl i p

theorem debounceChange_local (input : FixtureInput) : Part.Local i p (p.debounceChange i input) := by
  have h := (Part.Local.refl i p).setFx fun f => f.takeInput input
  unfold Part.debounceChange
  split
  · dsimp only
    split
    · exact h
    · exact h.trans (fixtureOutcome_local _ i _ _)
  · exact .refl i p

theorem codeChange_local (code : BitVec 6) : Part.Local i p (p.codeChange i code) := by
  unfold Part.codeChange
  split
  · exact (Part.Local.refl i p).setFx _
  · exact .refl i p

theorem handTimeout_local : Part.Local i p (p.handTimeout i) := by
  unfold Part.handTimeout
  dsimp only
  split
  · split
    · exact ((Part.Local.refl i p).setFx _).trans (failClamp_local _ i _ _ _)
    · exact .refl i p
  · exact .refl i p

theorem jam_local : Part.Local i p (p.jam i) := by
  have h := ((Part.Local.refl i p).setFx Fixture.toJammed).trans (faultReport_local _ i .jammed)
  unfold Part.jam
  dsimp only
  split
  · exact h.setFx _
  · exact h

theorem travelExpiry_local : Part.Local i p (p.travelExpiry i) := by
  have h : ∀ b : Bool, Part.Local i p (if b then p.jam i else p) := fun b => by
    cases b
    · exact .refl i p
    · exact jam_local p i
  unfold Part.travelExpiry
  dsimp only
  split
  · exact h _
  · exact h _
  · exact .refl i p

end Fixtures

/-! ### Events of the line controllers -/

section Lines
variable (p : Part) (i : StationId)

theorem frameReaches_local (f : Frame) (result : FrameResult) : Part.Local i p (p.frameReaches i f result) := by
  unfold Part.frameReaches
  split
  · split
    · exact Part.Local.conclude ((Part.Local.refl i p).setWork _)
    · exact .refl i p
  · split
    · exact finish_local p i _
    · exact .refl i p
  · exact finish_local p i _
  · exact finish_local p i _
  · exact .refl i p

theorem endFrame_local (f : Frame) (result : FrameResult) : Part.Local i p (p.endFrame i f result) :=
  ((endFrameRecord_local p i f result).trans (afterFrame_local _ i)).trans (frameReaches_local _ i _ _)

theorem scheduleDue_local (e : Fin 16) : Part.Local i p (p.scheduleDue i e) := by
  unfold Part.scheduleDue
  split
  · exact (fallDue_local p i e).trans (startFrame_local _ i)
  · exact .refl i p

theorem wireFree_local : Part.Local i p (p.wireFree i) := by
  unfold Part.wireFree
  split
  · exact ((Part.Local.refl i p).setLc _).trans (startFrame_local _ i)
  · exact .refl i p

theorem syncComplete_local : Part.Local i p (p.syncComplete i) := by
  unfold Part.syncComplete
  split
  · exact ((Part.Local.refl i p).setLc _).trans (startFrame_local _ i)
  · exact .refl i p

theorem bitFault_local (noisy : Bool) : Part.Local i p (p.bitFault i noisy) := by
  unfold Part.bitFault
  split
  · exact endFrame_local p i _ _
  · exact .refl i p

theorem sendEnds_local (noisy : Bool) : Part.Local i p (p.sendEnds i noisy) := by
  unfold Part.sendEnds
  split
  · split
    · exact .refl i p
    · exact endFrame_local p i _ _
  · exact .refl i p

theorem openWindow_local (noisy : Bool) : Part.Local i p (p.openWindow i noisy) := by
  unfold Part.openWindow
  split
  · split
    · exact (Part.Local.refl i p).setFrame _
    · exact .refl i p
  · exact .refl i p

theorem hearCharacter_local (c : CharSamples) : Part.Local i p (p.hearCharacter i c) := by
  unfold Part.hearCharacter
  split
  · split
    · exact .refl i p
    · split
      · exact endFrame_local p i _ _
      · exact (Part.Local.refl i p).setFrame _
  · exact .refl i p

theorem allowanceEnds_local : Part.Local i p (p.allowanceEnds i) := by
  unfold Part.allowanceEnds
  split
  · split
    · exact (Part.Local.refl i p).setFrame _
    · exact .refl i p
  · exact .refl i p

theorem closeWindow_local (noisy : Bool) : Part.Local i p (p.closeWindow i noisy) := by
  unfold Part.closeWindow
  split
  · exact endFrame_local p i _ _
  · exact .refl i p

theorem falseStartBit_local : Part.Local i p (p.falseStartBit i) := by
  unfold Part.falseStartBit
  split
  · exact (Part.Local.refl i p).setFrame _
  · exact .refl i p

theorem stuckReaches_local (cut : Option Frame) : Part.Local i p (p.stuckReaches i cut) := by
  unfold Part.stuckReaches
  split
  · exact finish_local p i _
  · exact finish_local p i _
  · exact finish_local p i _
  · split
    · split
      · exact Part.Local.conclude ((Part.Local.refl i p).setWork _)
      · exact .refl i p
    · exact .refl i p
  · exact .refl i p

theorem stuckLine_local (recessiveSince : Bool) : Part.Local i p (p.stuckLine i recessiveSince) := by
  have told : ∀ (q : Part) (cut : Option Frame), Part.Local i q
      ((((q.setLc i Line.stick).stuckReaches i cut).setLc i Line.tellStuck).raise (.line i)) := fun q cut =>
    .raise (.setLc (((Part.Local.refl i q).setLc _).trans (stuckReaches_local _ i cut)) _) _
  unfold Part.stuckLine
  dsimp only
  split
  · split
    · exact (endFrameRecord_local p i _ _).trans (told _ _)
    · exact told p _
  · exact .refl i p

end Lines

/-! ### Events of the panel -/

section PanelEvents
variable (p : Part)

theorem answerPrompt_local (e : PanelEntry) (r : Result) : Part.Local e.station p (p.answerPrompt e r) :=
  (endShowing_local _ p).trans (completeStep_local _ _ r)

theorem pressStop_local (e : PanelEntry) : Part.Local e.station p (p.pressStop e) :=
  (abandonRerun_local p _ _).trans (answerPrompt_local _ e _)

theorem pressPrompt_local (e : PanelEntry) (key : Key) : Part.Local e.station p (p.pressPrompt e key) := by
  unfold Part.pressPrompt
  split
  · exact pressStop_local p e
  · split
    · exact .refl _ p
    · exact answerPrompt_local p e _
  · split
    · exact .refl _ p
    · split
      · exact answerPrompt_local p e _
      · exact answerPrompt_local p e _
  · split
    · exact .refl _ p
    · exact pressRepeat_local p e

theorem pressNotice_local (i : StationId) (key : Key) : Part.Local i p (p.pressNotice key) := by
  unfold Part.pressNotice
  split
  · exact endShowing_local i p
  · exact endShowing_local i p
  · exact beep_local i p _
  · exact .refl i p

theorem takePress_event (key : Key) : Part.Event p (p.takePress key) := by
  unfold Part.takePress
  split
  · exact .refl p
  · split
    · exact .refl p
    · split
      · exact (pressNotice_local p 0 key).event
      · exact (pressPrompt_local p _ key).event

theorem keyPressed_event (key : Key) : Part.Event p (p.keyPressed key) := by
  unfold Part.keyPressed
  split
  · exact ((Part.Local.refl 0 p).setPanel _).event.trans (takePress_event _ key)
  · exact .refl p

theorem keyReleased_local (i : StationId) (key : Key) : Part.Local i p (p.keyReleased key) := by
  unfold Part.keyReleased
  split
  · exact (Part.Local.refl i p).setPanel _
  · exact .refl i p

theorem promptExpires_event : Part.Event p p.promptExpires := by
  unfold Part.promptExpires
  split
  · split
    · exact (answerPrompt_local p _ _).event
    · exact .refl p
  · exact .refl p

theorem render_local (i : StationId) : Part.Local i p p.render := by
  unfold Part.render
  split
  · dsimp only
    split
    · exact (showText_local i p _).trans (publishFigures_local i _)
    · exact .refl i p
  · exact .refl i p

theorem noticeBeeps_local (i : StationId) : Part.Local i p p.noticeBeeps := by
  unfold Part.noticeBeeps
  split
  · split
    · exact (beep_local i p _).setPanel _
    · exact .refl i p
  · exact .refl i p

theorem buzzerEnds_local (i : StationId) : Part.Local i p p.buzzerEnds := by
  unfold Part.buzzerEnds
  split
  · split
    · exact (Part.Local.refl i p).setPanel _
    · exact .refl i p
  · exact .refl i p

end PanelEvents

/-! ### Events against rack time, of the supply and of the stimulus -/

section Timed
variable (p : Part) (i : StationId)

theorem waitEnds_local : Part.Local i p (p.waitEnds i) := by
  unfold Part.waitEnds
  split
  · split
    · split
      · exact finish_local p i _
      · exact .refl i p
    · exact .refl i p
  · exact .refl i p

theorem nextAttempt_local : Part.Local i p (p.nextAttempt i) := by
  unfold Part.nextAttempt
  split
  · split
    · split
      · exact (startAttempt_local p i _ _).conclude
      · exact .refl i p
    · exact .refl i p
  · exact .refl i p

theorem settleExpires_local : Part.Local i p (p.settleExpires i) := by
  unfold Part.settleExpires
  split
  · split
    · split
      · split
        · exact finish_local p i _
        · exact (Part.Local.refl i p).setWork _
      · exact .refl i p
    · exact .refl i p
  · exact .refl i p

theorem listenExpires_local : Part.Local i p (p.listenExpires i) := by
  unfold Part.listenExpires
  split
  · split
    · split
      · exact finish_local p i _
      · exact .refl i p
    · exact .refl i p
  · exact .refl i p

theorem supplyStep_local : Part.Local i p (p.supplyStep i) := by
  have h := (Part.Local.refl i p).setPs
  unfold Part.supplyStep
  dsimp only
  split
  · split
    · exact (h _).trans (finish_local _ i _)
    · exact h _
  · exact .refl i p

theorem monitorSample_local (mA mV : Nat) (inLimit : Bool) :
    Part.Local i p (p.monitorSample i mA mV inLimit) := by
  unfold Part.monitorSample
  split
  · exact (Part.Local.refl i p).setPs _
  · exact .refl i p

theorem trip_local : Part.Local i p (p.trip i) := by
  unfold Part.trip
  dsimp only
  split
  · exact (supplyLeave_local p i _).trans (faultReport_local _ i _)
  · exact .refl i p

theorem rampStep_local (c : RampChannel) : Part.Local i p (p.rampStep i c) := by
  have h : ∀ f g, Part.Local i p ((p.setSt i f).setWalker i g) := fun f g =>
    ((Part.Local.refl i p).setSt f).setWalker g
  unfold Part.rampStep
  dsimp only
  split
  · exact .refl i p
  · split
    · split
      · split
        · exact (h _ _).trans (finish_local _ i _)
        · exact h _ _
      · exact h _ _
    · exact .refl i p

end Timed

/-! ### Events of the rack -/

section Rack
variable (p : Part)

theorem countFixtures_event (fixtures : Vector FixtureRaw 4) : Part.Event p (p.countFixtures fixtures) :=
  eachStation_event p fun i q => ((Part.Local.refl i q).setFx _).event

/-- HALT and CLEAR at one station. -/
theorem writeStnctl_event (v : Word) : Part.Event p (p.writeStnctl v) := by
  refine eachStation_event p fun i q => ?_
  dsimp only
  split
  · split
    · exact ((halt_local q i).trans (clear_local _ i)).event
    · exact (clear_local q i).event
  · split
    · exact (halt_local q i).event
    · exact .refl q

theorem recoverCell_local (i : StationId) (c : CellId) : Part.Local i p (p.recoverCell i c) := by
  unfold Part.recoverCell
  dsimp only
  split
  · exact .setCellState (.poke32 (.poke8 (.poke8 (.refl i p) _ _) _ _) _ _) _ _ _
  · exact .refl i p

theorem recoverRun_local (i : StationId) : Part.Local i p (p.recoverRun i) := by
  unfold Part.recoverRun
  exact ((Part.Local.refl i p).setRun _).trans (closeRun_local _ i)

theorem enableLine_local (i : StationId) : Part.Local i p (p.enableLine i) := by
  unfold Part.enableLine
  exact .zero (.setLc (.refl i p) _) _ _

theorem enableMonitors_local (i : StationId) (levels : BitVec 8) :
    Part.Local i p (p.enableMonitors i levels) := by
  unfold Part.enableMonitors
  exact .zero (.foldl (.setAq (.refl i p) _) _ fun q k => writeInput_local q i k) _ _

theorem bringUp_local (i : StationId) (raw : RawLevels) : Part.Local i p (p.bringUp raw i) := by
  have recovered : Part.Local i p ((p.recoverCells i).recoverRun i) :=
    (Part.Local.foldl (.refl i p) _ fun q c => recoverCell_local q i c).trans (recoverRun_local _ i)
  unfold Part.bringUp
  dsimp only
  exact .memory (.setWalker (((recovered.setFx _).trans (enableLine_local _ i)).trans
    (enableMonitors_local _ i _)) _) _ (writeWords_wf _ _)

theorem enablePanel_local (i : StationId) (keys : BitVec 4) : Part.Local i p (p.enablePanel keys) :=
  (((Part.Local.refl i p).setPanel _).trans (publishPanel_local i _)).trans (showIdle_local i _)

theorem disablePanel_local (i : StationId) : Part.Local i p p.disablePanel :=
  (((Part.Local.refl i p).setPanel _).trans (publishPanel_local i _)).trans (showText_local i _ _)

theorem takeDown_local (i : StationId) : Part.Local i p (p.takeDown i) := by
  unfold Part.takeDown
  split
  · exact .refl i p
  · dsimp only
    exact (((supplyOff_local p i).trans (abandonStep_local _ i _)).trans (closeRun_local _ i)).modify _

end Rack

end Sys2Proof.Machine
end

