-- ==== Sys2Proof/Proofs/Outcomes.lean ====
section
/-! What a command can make of the part: one inversion lemma over all commands. -/

namespace Sys2Proof.Machine

/-! ### The mask and the canonical form -/

/-- ATTNMASK stands, and memory keeps its canonical form: what every change of a running part keeps, but for a
write to ATTNMASK and the resets. -/
structure Part.Steady (p q : Part) : Prop where
  mask : q.attnMask = p.attnMask
  canonical : p.mem.wf = true → q.mem.wf = true

theorem Part.Steady.refl (p : Part) : Part.Steady p p := ⟨rfl, id⟩

theorem Part.Steady.trans {p q r : Part} (h : Part.Steady p q) (h' : Part.Steady q r) : Part.Steady p r :=
  ⟨h'.mask.trans h.mask, fun hw => h'.canonical (h.canonical hw)⟩

theorem Part.Event.steady {p q : Part} (h : Part.Event p q) : Part.Steady p q := ⟨h.attnMask, h.canonical⟩

theorem Part.Local.steady {i : StationId} {p q : Part} (h : Part.Local i p q) : Part.Steady p q := h.event.steady

section
variable (p : Part)

theorem tick_steady (keys : RawMs 4) : Part.Steady p (p.tick keys) := by
  have h : Part.Event p
      (p.eachStation fun i q => if (q.station i).walker.state = .off then q else q.writeInputs i) := by
    refine eachStation_event p fun i q => ?_
    split
    · exact .refl q
    · exact (writeInputs_local q i).event
  have advanced : ∀ (q : Part) (now : Time) (c : Panel), Part.Steady q { q with rackTime := now, panel := c } :=
    fun _ _ _ => ⟨rfl, id⟩
  unfold Part.tick
  exact h.steady.trans (advanced _ _ _)

theorem rackTick_steady (keys : RawMs 4) (fixtures : Vector FixtureRaw 4) :
    Part.Steady p (p.rackTick keys fixtures) := by
  have h := (countFixtures_event p fixtures).steady
  unfold Part.rackTick
  dsimp only
  split
  · exact h
  · exact h.trans (tick_steady _ keys)

theorem periodicSweep_steady : Part.Steady p p.periodicSweep := by
  have counted : ∀ b, Part.Steady p { p with sweepBase := b } := fun _ => ⟨rfl, id⟩
  unfold Part.periodicSweep
  split
  · split
    · exact (counted _).trans (sweep_event _).steady
    · exact .refl p
  · exact .refl p

theorem writeSweep_event : Part.Event p p.writeSweep := by
  unfold Part.writeSweep
  split
  · exact sweep_event p
  · exact .refl p

theorem writeConfigError_local (i : StationId) (e : Option ConfigError) :
    Part.Local i p (p.writeConfigError e) := by
  unfold Part.writeConfigError
  split <;> exact (Part.Local.refl i p).poke32 _ _

theorem enable_steady (raw : RawLevels) : Part.Steady p (p.enable raw) := by
  have up : ∀ (q : Part) (mask : BitVec 4), Part.Event q
      (q.eachStation fun i r => if mask.getLsbD i.val then r.bringUp raw i else r) := fun q mask => by
    refine eachStation_event q fun i r => ?_
    split
    · exact (bringUp_local r i raw).event
    · exact .refl r
  have checked : ∀ q : Part, Part.Local 0 q
      (((q.setConv Converter.startCheck).writeReference 0 0 false).enablePanel raw.keys) := fun q =>
    (((Part.Local.refl 0 q).setConv _).trans (writeReference_local _ 0 _ _ _)).trans (enablePanel_local _ 0 _)
  have latched : Part.Steady p { p with enabled := true, config := p.readRackConfig } := ⟨rfl, id⟩
  exact (latched.trans (up _ _).steady).trans (checked _).steady

theorem tryEnable_steady (raw : RawLevels) : Part.Steady p (p.tryEnable raw) := by
  unfold Part.tryEnable
  split
  · exact (writeConfigError_local p 0 _).steady
  · exact (writeConfigError_local p 0 _).steady.trans (enable_steady _ raw)

theorem disable_steady : Part.Steady p p.disable := by
  have down : ∀ q : Part, Part.Event q (q.eachStation fun i r => r.takeDown i) := fun q =>
    eachStation_event q fun i r => (takeDown_local r i).event
  have dark : ∀ q : Part, Part.Local 0 q (q.setConv Converter.stopCheck).disablePanel := fun q =>
    ((Part.Local.refl 0 q).setConv _).trans (disablePanel_local _ 0)
  have latched : Part.Steady p { p with enabled := false } := ⟨rfl, id⟩
  exact (latched.trans (down _).steady).trans (dark _).steady

theorem writeControl_steady (v : Word) (raw : RawLevels) : Part.Steady p (p.writeControl v raw) := by
  have stored : ∀ (q : Part) (b : Bool) (t : Option Time),
      Part.Steady q { q with sweepRequested := b, sweepBase := t } := fun _ _ _ => ⟨rfl, id⟩
  unfold Part.writeControl
  dsimp only
  refine .trans ?_ (stored _ _ _)
  split
  · exact tryEnable_steady p raw
  · split
    · exact disable_steady p
    · exact .refl p

theorem writeAttn_steady (v : Word) : Part.Steady p (p.writeAttn v) := ⟨rfl, id⟩

theorem guardedWrite_steady (i : StationId) (c : CellId) (v : Word) : Part.Steady p (p.guardedWrite i c v) := by
  unfold Part.guardedWrite
  dsimp only
  split
  · exact ⟨rfl, writeLE_wf _ _ _⟩
  · exact ⟨rfl, id⟩

theorem writeMemory_steady (x : Nat) (v : Word) : Part.Steady p (p.writeMemory x v) := by
  unfold Part.writeMemory
  split
  · exact guardedWrite_steady p _ _ v
  · exact ⟨rfl, writeLE_wf _ _ _⟩

end

/-! ### The outcomes of a command -/

/-- The command is a write to ATTNMASK: as its own row, or as a write to the register's word. -/
def Instr.WritesMask : Instr → Prop
  | .attnmaskWrite _ => True
  | .registerWriteIgnored r _ => r = .attnmask
  | .hostMemoryWrite k _ => registerAt k = some .attnmask
  | _ => False

/-- What a command can make of the part. -/
inductive Part.Outcome (c : Instr) (p : Part) : Part → Prop where
  /-- Nothing. -/
  | stands : Outcome c p p
  /-- An event, with its publication and the outputs that follow. -/
  | event (q : Part) (h : Part.Steady p q) : Outcome c p (Part.commit p q)
  /-- A write to ATTNMASK. -/
  | masked (v : Word) (h : Instr.WritesMask c) : Outcome c p (Part.commit p (p.writeAttnMask v))
  /-- A read of GUARDLOG. -/
  | port : Outcome c p p.readGuardLog
  /-- A power-on reset, the assertion of RESET#, a soft reset, the end of a reset. -/
  | powerOn (contents : List Host.Cell) : Outcome c p (p.powerOn contents)
  | resetPin : Outcome c p p.resetPin
  | softReset : Outcome c p p.softReset.settle
  | resetEnd : Outcome c p p.endReset

section
variable {c : Instr} {p : Part}

/-- An event that a reset stops. -/
theorem take_outcome (f : Part → Part) (h : Part.Steady p (f p)) : Part.Outcome c p (p.take f) := by
  unfold Part.take
  split
  · exact .stands
  · exact .event _ h

theorem rackctlWrite_outcome (v : Word) (raw : RawLevels) : Part.Outcome c p (p.rackctlWrite v raw) := by
  unfold Part.rackctlWrite
  split
  · exact .stands
  · split
    · exact .softReset
    · exact .event _ (writeControl_steady p v raw)

theorem writeAttnMask_outcome (v : Word) (h : Instr.WritesMask c) :
    Part.Outcome c p (p.take fun q => q.writeAttnMask v) := by
  unfold Part.take
  split
  · exact .stands
  · exact .masked v h

theorem writeRegister_outcome (r : Register) (v : Word) (h : r = .attnmask → Instr.WritesMask c) :
    Part.Outcome c p (p.writeRegister r v) := by
  cases r with
  | ident => exact take_outcome (fun q => q) (.refl p)
  | racktime => exact take_outcome (fun q => q) (.refl p)
  | guardlog => exact take_outcome (fun q => q) (.refl p)
  | rackctl => exact rackctlWrite_outcome v _
  | sweep => exact take_outcome _ (writeSweep_event p).steady
  | stnctl => exact take_outcome (fun q => q.writeStnctl v) (writeStnctl_event p v).steady
  | attn => exact take_outcome (fun q => q.writeAttn v) (writeAttn_steady p v)
  | attnmask => exact writeAttnMask_outcome v (h rfl)

theorem hostWrite_outcome (k : BitVec 14) (v : Word) (h : registerAt k = some .attnmask → Instr.WritesMask c) :
    Part.Outcome c p (p.hostWrite k v) := by
  unfold Part.hostWrite
  split
  · rename_i r e
    exact writeRegister_outcome r v fun hr => h (hr ▸ e)
  · exact take_outcome _ (writeMemory_steady p _ v)

end

/-- Every command answers a next state that keeps the queue, and its part is one of the outcomes. -/
theorem exec_outcome (c : Instr) (s : State) :
    ∃ q, exec c s = .next { s with part := q } ∧ Part.Outcome c s.part q := by
  have event : ∀ f : Part → Part, Part.Steady s.part (f s.part) →
      ∃ q, s.event f = .next { s with part := q } ∧ Part.Outcome c s.part q := fun f h =>
    ⟨_, rfl, take_outcome f h⟩
  have always : ∀ f : Part → Part, Part.Steady s.part (f s.part) →
      ∃ q, s.always f = .next { s with part := q } ∧ Part.Outcome c s.part q := fun f h => ⟨_, rfl, .event _ h⟩
  cases c with
  | powerOnReset contents => exact ⟨_, rfl, .powerOn contents⟩
  | resetPinAsserted => exact ⟨_, rfl, .resetPin⟩
  | softReset v => exact ⟨_, rfl, rackctlWrite_outcome v _⟩
  | rackEnable v raw => exact ⟨_, rfl, rackctlWrite_outcome v raw⟩
  | rackDisable v => exact ⟨_, rfl, rackctlWrite_outcome v _⟩
  | sweepmodeWrite v => exact ⟨_, rfl, rackctlWrite_outcome v _⟩
  | sweepWrite v => exact event _ (writeSweep_event s.part).steady
  | periodicSweep => exact event _ (periodicSweep_steady s.part)
  | stationHalt v => exact event _ (writeStnctl_event s.part v).steady
  | stationClear v => exact event _ (writeStnctl_event s.part v).steady
  | attnClear v => exact event _ (writeAttn_steady s.part v)
  | attnmaskWrite v => exact ⟨_, rfl, writeAttnMask_outcome v trivial⟩
  | guardlogRead => exact ⟨_, rfl, .port⟩
  | registerWriteIgnored r v => exact ⟨_, rfl, writeRegister_outcome r v id⟩
  | hostMemoryWrite k v => exact ⟨_, rfl, hostWrite_outcome k v id⟩
  | hostCellStateWrite i c v => exact event _ (guardedWrite_steady s.part i c v)
  | rackTimeTick keys fixtures => exact always (fun p => p.rackTick keys fixtures) (rackTick_steady s.part keys fixtures)
  | waitExpiry i => exact event _ (waitEnds_local s.part i).steady
  | fixtureDebounceChange i k => exact always _ (debounceChange_local s.part i k).steady
  | fixtureCodeChange i d => exact always _ (codeChange_local s.part i d).steady
  | twoHandTimeout i => exact event _ (handTimeout_local s.part i).steady
  | travelTimeout i => exact event _ (travelExpiry_local s.part i).steady
  | supplyRampStep i => exact event _ (supplyStep_local s.part i).steady
  | supplyMonitorSample i mA mV b => exact event _ (monitorSample_local s.part i _ _ b).steady
  | supplyTrip i => exact event _ (trip_local s.part i).steady
  | stimulusRampStep i k => exact event _ (rampStep_local s.part i k).steady
  | pgPeriodBoundary i g => exact event _ ((Part.Local.refl i s.part).setSt _).steady
  | scheduleEntryDue i e => exact event _ (scheduleDue_local s.part i e).steady
  | wireFree i => exact event _ (wireFree_local s.part i).steady
  | lineSyncComplete i => exact event _ (syncComplete_local s.part i).steady
  | bitError i b => exact event _ (bitFault_local s.part i b).steady
  | frameEnd i b => exact event _ (sendEnds_local s.part i b).steady
  | responseCharacterReceived i x => exact event _ (hearCharacter_local s.part i x).steady
  | responseAllowanceExpiry i => exact event _ (allowanceEnds_local s.part i).steady
  | responseWindowClose i b => exact event _ (closeWindow_local s.part i b).steady
  | lineStuck i b => exact event _ (stuckLine_local s.part i b).steady
  | sampleEnd v => exact event _ (sampleEnds_event s.part v).steady
  | inputFilteredEdge i k t => exact event _ (inputEdge_local s.part i k t).steady
  | inputExcursionRejected i k => exact event _ (inputReject_local s.part i k).steady
  | edgeWindowClose i => exact event _ (windowEnds_local s.part i).steady
  | meterGateEnd i n => exact event _ ((Part.Local.refl i s.part).setAq _).steady
  | meterDeadline i n => exact event _ (meterExpires_local s.part i n).steady
  | lampIdentityRead i b => exact event _ (identityRead_local s.part i b).steady
  | lampRowUpdate i v => exact event _ (rowUpdate_local s.part i v).steady
  | attemptStart i => exact event _ (nextAttempt_local s.part i).steady
  | settleTimeout i => exact event _ (settleExpires_local s.part i).steady
  | listenTimeout i => exact event _ (listenExpires_local s.part i).steady
  | keyPress k => exact event _ (keyPressed_event s.part k).steady
  | promptTimeout => exact event _ (promptExpires_event s.part).steady
  | panelRender => exact event _ (render_local s.part 0).steady
  | noticeBeep => exact event _ (noticeBeeps_local s.part 0).steady
  | buzzerEnd => exact event _ (buzzerEnds_local s.part 0).steady
  | resetEnd => exact ⟨_, rfl, .resetEnd⟩
  | keyRelease k => exact event _ (keyReleased_local s.part 0 k).steady
  | responseWindowOpen i b => exact event _ (openWindow_local s.part i b).steady
  | falseStart i => exact event _ (falseStartBit_local s.part i).steady

/-- What a command answers, read backwards. -/
theorem outcome_of_exec {c : Instr} {s t : State} (h : exec c s = .next t) : Part.Outcome c s.part t.part := by
  obtain ⟨q, hq, ho⟩ := exec_outcome c s
  rw [h] at hq
  cases hq
  exact ho

/-- A step leaves the state as it is, or carries out the command at the front. -/
theorem step_cases {s t : State} (h : step s = .next t) :
    t = s ∨ ∃ c, Part.Outcome c s.part t.part := by
  unfold step at h
  split at h
  · cases h
    exact .inl rfl
  · rename_i c rest _
    exact .inr ⟨c, outcome_of_exec (s := { s with pending := rest }) h⟩

/-! ### Resets -/

theorem resetPin_runs {p : Part} (h : p.Runs) :
    p.resetPin = { p.resetRunning .pin with inReset := some .pin } := by
  simp only [Part.resetPin, h]

theorem resetPin_held {p : Part} {cause : ResetCause} (h : p.inReset = some cause) :
    p.resetPin =
      { p with mem := p.mem.write Config.resetRecord ResetCause.pin.code, inReset := some .pin } := by
  simp only [Part.resetPin, h]
  rfl

theorem rackctlWrite_reset {p : Part} (v : Word) (raw : RawLevels) (h : p.Runs) (hv : writtenReset v = true) :
    p.rackctlWrite v raw = p.softReset.settle := by
  simp [Part.rackctlWrite, h, hv]

/-- The causes of a reset that begins: a power-on, RESET# of a part that runs, and a soft reset of one. -/
def Instr.BeginsReset (c : Instr) (p : Part) : Prop :=
  (∃ m, c = .powerOnReset m) ∨ (p.Runs ∧ c = .resetPinAsserted) ∨
    (p.Runs ∧ ∃ v, c = .softReset v ∧ asksReset v = true)

theorem pinAsserted_zero : pinAsserted 0 0 = false := by decide

/-- Where a reset that begins leaves the part: every block at its reset state, whatever its cause. -/
theorem exec_beginsReset {c : Instr} {s t : State} (hc : Instr.BeginsReset c s.part) (h : exec c s = .next t) :
    t.part.attn = 0 ∧ t.part.attnMask = 0 ∧ t.part.attnPin = false ∧ t.part.guardLog = .empty := by
  obtain ⟨m, rfl⟩ | ⟨hr, rfl⟩ | ⟨hr, v, rfl, hv⟩ := hc
  · cases h
    exact ⟨rfl, rfl, rfl, rfl⟩
  · cases h
    rw [resetPin_runs hr]
    exact ⟨rfl, rfl, rfl, rfl⟩
  · cases h
    rw [rackctlWrite_reset v _ hr hv]
    exact ⟨rfl, rfl, (settle_attnPin s.part.softReset).trans pinAsserted_zero, rfl⟩

end Sys2Proof.Machine
end

