-- ==== Sys2Proof/Proofs/MemoryAndPin.lean ====
section
/-! The canonical form of exchange memory and the ATTN# pin, over every step. -/

namespace Sys2Proof.Machine

/-! ### The canonical form -/

/-- Two memories in canonical form from one address on that read alike are the same data. -/
theorem wfFrom_ext {low : Nat} {m m' : Memory} (h : Memory.wfFrom low m = true)
    (h' : Memory.wfFrom low m' = true) (e : ∀ a, m.read a = m'.read a) : m = m' := by
  induction m generalizing low m' with
  | nil =>
    cases m' with
    | nil => rfl
    | cons c' m' =>
      obtain ⟨a', b'⟩ := c'
      have first : 0 = b' := by simpa [Memory.read] using e a'
      exact absurd first.symm ((wfFrom_cons low a' b' m').mp h').2.2.1
  | cons c m ih =>
    obtain ⟨a, b⟩ := c
    have hc := (wfFrom_cons low a b m).mp h
    cases m' with
    | nil =>
      have first : b = 0 := by simpa [Memory.read] using e a
      exact absurd first hc.2.2.1
    | cons c' m' =>
      obtain ⟨a', b'⟩ := c'
      have hc' := (wfFrom_cons low a' b' m').mp h'
      have first : a = a' := by
        rcases Nat.lt_trichotomy a a' with lt | eq | lt
        · have unlisted := read_below ((wfFrom_cons (a + 1) a' b' m').mpr ⟨lt, hc'.2⟩) (Nat.lt_succ_self a)
          rw [← e a, Memory.read, if_pos rfl] at unlisted
          exact absurd unlisted hc.2.2.1
        · exact eq
        · have unlisted := read_below ((wfFrom_cons (a' + 1) a b m).mpr ⟨lt, hc.2⟩) (Nat.lt_succ_self a')
          rw [e a', Memory.read, if_pos rfl] at unlisted
          exact absurd unlisted hc'.2.2.1
      subst first
      have byte : b = b' := by simpa [Memory.read] using e a
      have rest : m = m' := by
        refine ih hc.2.2.2 hc'.2.2.2 fun x => ?_
        by_cases hx : x = a
        · rw [hx, read_below hc.2.2.2 (by omega), read_below hc'.2.2.2 (by omega)]
        · simpa [Memory.read, hx] using e x
      rw [byte, rest]

theorem resetRunning_wf {p : Part} (cause : ResetCause) (h : p.mem.wf = true) :
    (p.resetRunning cause).mem.wf = true := writeLE_wf _ _ _ h

theorem resetPin_wf {p : Part} (h : p.mem.wf = true) : p.resetPin.mem.wf = true := by
  cases hr : p.inReset with
  | none =>
    rw [resetPin_runs hr]
    exact resetRunning_wf _ h
  | some _ =>
    rw [resetPin_held hr]
    exact write_wf Config.resetRecord ResetCause.pin.code h

theorem powerOn_wf (p : Part) (contents : List Host.Cell) : (p.powerOn contents).mem.wf = true :=
  writeLE_wf _ _ _ (ofCells_wf contents)

theorem outcome_wf {c : Instr} {p q : Part} (h : Part.Outcome c p q) (hw : p.mem.wf = true) :
    q.mem.wf = true := by
  cases h with
  | stands => exact hw
  | event _ h => exact commit_mem_wf (h.canonical hw)
  | masked => exact commit_mem_wf hw
  | port =>
    unfold Part.readGuardLog
    split <;> exact hw
  | powerOn contents => exact powerOn_wf p contents
  | resetPin => exact resetPin_wf hw
  | softReset => exact resetRunning_wf _ hw
  | resetEnd =>
    unfold Part.endReset
    split <;> exact hw

/-- Settles O6: every outcome of a command keeps the canonical form, and a memory in it is determined by what
it reads. -/
theorem memoryStaysCanonical : Obligations.MemoryStaysCanonical := by
  refine ⟨fun s t hw h => ?_, fun m m' h h' e => wfFrom_ext h h' e⟩
  obtain rfl | ⟨c, ho⟩ := step_cases h
  · exact hw
  · exact outcome_wf ho hw

/-! ### The pin -/

/-- The pin is the one R19 gives for the two registers as they stand. -/
abbrev Part.PinSettled (p : Part) : Prop := p.attnPin = pinAsserted p.attn p.attnMask

theorem resetPin_pin {p : Part} (h : p.PinSettled) : p.resetPin.PinSettled := by
  cases hr : p.inReset with
  | none =>
    rw [resetPin_runs hr]
    exact pinAsserted_zero.symm
  | some _ =>
    rw [resetPin_held hr]
    exact h

theorem outcome_pin {c : Instr} {p q : Part} (h : Part.Outcome c p q) (hp : p.PinSettled) : q.PinSettled := by
  cases h with
  | stands => exact hp
  | event => rfl
  | masked => rfl
  | port =>
    unfold Part.readGuardLog
    split <;> exact hp
  | powerOn => exact pinAsserted_zero.symm
  | resetPin => exact resetPin_pin hp
  | softReset => rfl
  | resetEnd =>
    unfold Part.endReset
    split <;> exact hp

/-- The pin is asserted exactly while some bit is set in both registers. -/
theorem pinAsserted_iff (attn mask : BitVec 22) :
    pinAsserted attn mask = true ↔ ∃ k < 22, attn.getLsbD k = true ∧ mask.getLsbD k = true := by
  have none : attn &&& mask = 0#22 ↔ ∀ k < 22, ¬(attn.getLsbD k = true ∧ mask.getLsbD k = true) := by
    rw [BitVec.eq_of_getLsbD_eq_iff]
    simp
  rw [pinAsserted, bne_iff_ne, ne_eq, show (0 : BitVec 22) = 0#22 from rfl, none]
  push Not
  rfl

/-! ### The mask -/

theorem resetPin_mask (p : Part) : p.resetPin.attnMask = p.attnMask ∨ p.resetPin.attnMask = 0 := by
  cases hr : p.inReset with
  | none => exact .inr (by rw [resetPin_runs hr]; rfl)
  | some _ => exact .inl (by rw [resetPin_held hr])

theorem outcome_mask {c : Instr} {p q : Part} (h : Part.Outcome c p q) (hc : ¬Instr.WritesMask c) :
    q.attnMask = p.attnMask ∨ q.attnMask = 0 := by
  cases h with
  | stands => exact .inl rfl
  | event _ h => exact .inl h.mask
  | masked _ h => exact absurd h hc
  | port =>
    unfold Part.readGuardLog
    split <;> exact .inl rfl
  | powerOn => exact .inr rfl
  | resetPin => exact resetPin_mask p
  | softReset => exact .inr rfl
  | resetEnd =>
    unfold Part.endReset
    split <;> exact .inl rfl

/-- Settles O11: the pin follows the registers at every outcome; the mask stands at every outcome but a write to it
and a reset. -/
theorem attnPinFollowsRegisters : Obligations.AttnPinFollowsRegisters := by
  refine ⟨fun s t hs h => ?_, fun s t v hr h k hk => ?_, fun s t c h hm hi hw => ?_, fun s t c hc h => ?_⟩
  · have pin : t.part.PinSettled := by
      obtain rfl | ⟨c, ho⟩ := step_cases h
      · exact hs.1
      · exact outcome_pin ho hs.1
    rw [pin, pinAsserted_iff]
  · have e : exec (.attnmaskWrite v) s = _ := event_runs s (fun p => p.writeAttnMask v) hr
    rw [e] at h
    cases h
    simp [Part.writeAttnMask, hk]
  · refine outcome_mask (outcome_of_exec h) fun writes => ?_
    cases c with
    | attnmaskWrite v => exact hm v rfl
    | registerWriteIgnored r v => exact hi v (by rw [show r = .attnmask from writes])
    | hostMemoryWrite k v => exact hw k v rfl writes
    | _ => exact writes
  · obtain ⟨_, hmask, hpin, _⟩ := exec_beginsReset hc h
    exact ⟨hmask, hpin⟩

end Sys2Proof.Machine
end

