-- ==== Sys2Proof/Proofs/HostPort.lean ====
section
/-! The host port: writes to exchange memory, the guard and GUARDLOG, and the register window. -/

namespace Sys2Proof.Machine

/-! ### Words of exchange memory -/

/-- A word written to memory reads back. -/
theorem word_writeLE_same {m : Memory} {x : Nat} (v : Word) (h : m.wf = true) (hx : x + 4 ≤ Config.memoryEnd) :
    (m.writeLE x 4 v.toNat).word x = v := by
  rw [Memory.word, readLE_writeLE_same x 4 _ h hx]
  exact BitVec.eq_of_toNat_eq (by simp [Nat.mod_eq_of_lt v.isLt])

theorem writeLE_sameOutside (m : Memory) (x n v : Nat) : m.SameOutside (m.writeLE x n v) x n :=
  fun a ha => read_writeLE_outside m x n v a ha

/-- The words of exchange memory end below the registers. -/
theorem registerAt_none {k : BitVec 14} : registerAt k = none ↔ k.toNat < Config.firstRegister := by
  unfold registerAt
  dsimp only
  split
  · simp [*]
  · repeat' split
    all_goals simp [*]

theorem hostRead_memory {p : Part} {k : BitVec 14} (h : registerAt k = none) :
    p.hostRead k = p.mem.word (4 * k.toNat) := by
  simp [Part.hostRead, h, Part.word, Part.u32, Memory.word]

theorem hostRead_register {p : Part} {k : BitVec 14} {r : Register} (h : registerAt k = some r) :
    p.hostRead k = p.readRegister r := by
  simp [Part.hostRead, h]

/-- A host write to a word that is neither a register nor a cell state word stores it, and no more. -/
theorem hostMemoryWrite_leaves {s : State} {k : BitVec 14} (v : Word) (hr : s.part.Runs)
    (hk : registerAt k = none) (hs : stateWordAt (4 * k.toNat) = none) :
    Leaves (.hostMemoryWrite k v) s { s.part with mem := s.part.mem.writeLE (4 * k.toNat) 4 v.toNat } := by
  have written : s.part.writeMemory (4 * k.toNat) v = s.part.poke32 (4 * k.toNat) v.toNat := by
    simp only [Part.writeMemory, hs]
  have answered : exec (.hostMemoryWrite k v) s = s.event fun q => q.writeMemory (4 * k.toNat) v := by
    show Host.Outcome.next { s with part := s.part.hostWrite k v } = _
    simp only [Part.hostWrite, hk]
    rfl
  exact leaves_event _ answered hr written rfl rfl

/-- Settles O15: the word is stored by one little-endian write, which reads back and leaves every other byte. -/
theorem hostWritesAreStored : Obligations.HostWritesAreStored := by
  intro s k v hr hw hk
  simp only [plainWord, Bool.and_eq_true, Option.isNone_iff_eq_none] at hk
  obtain ⟨hreg, hstate⟩ := hk
  have inside : 4 * k.toNat + 4 ≤ Config.memoryEnd := by
    have : k.toNat < 0x3FF8 := registerAt_none.mp hreg
    simp only [Config.memoryEnd]
    omega
  have stored := word_writeLE_same v hw inside
  exact ⟨_, hostMemoryWrite_leaves v hr hreg hstate, stored, writeLE_sameOutside _ _ _ _,
    (hostRead_memory hreg).trans stored⟩

/-! ### The guard -/

/-- The model's guard is R9's table. -/
theorem guardAccepts_iff (found written : Byte) : guardAccepts found written = true ↔ R9Accepts found written := by
  unfold guardAccepts R9Accepts
  by_cases same : found = written
  · simp [same]
  · by_cases empty : found = cellEmpty
    · have other : written ≠ cellEmpty := fun h => same (empty.trans h.symm)
      simp only [empty, if_true, if_false, decide_eq_true_eq, other.symm]
      simp [cellEmpty, cellReady]
    · by_cases cleared : written = cellEmpty
      · simp only [empty, cleared, if_true, if_false, decide_eq_true_eq, Bool.or_eq_true]
        simp [cellEmpty, cellReady, cellDone, cellAbandoned, or_assoc]
      · have found_ne : found ≠ 0#8 := empty
        have written_ne : written ≠ 0#8 := cleared
        simp [same, empty, cleared, found_ne, written_ne]

theorem cell_bounds (i : StationId) (c : CellId) :
    0x1100 ≤ Config.cell i c ∧ Config.cell i c + 64 ≤ 0x5500 ∧ Config.cell i c % 64 = 0 := by
  simp only [Config.cell, Config.page]
  omega

/-- An accepted write to a cell state word stores the whole word. -/
theorem guardedWrite_accepted {p : Part} {i : StationId} {c : CellId} {v : Word}
    (h : R9Accepts (p.cellState i c) (v.setWidth 8)) :
    p.guardedWrite i c v = p.poke32 (Config.cell i c) v.toNat := by
  simp only [Part.guardedWrite, if_pos ((guardAccepts_iff _ _).mpr h)]

/-- A refused write changes GUARDLOG and ATTN.GUARD alone. -/
theorem guardedWrite_refused {p : Part} {i : StationId} {c : CellId} {v : Word}
    (h : ¬R9Accepts (p.cellState i c) (v.setWidth 8)) :
    p.guardedWrite i c v =
      { p with guardLog := p.guardLog.refuse (Config.cell i c) (v.setWidth 8) (p.cellState i c)
               attn := p.attn ||| (1#22 <<< 20) } := by
  have refused : ¬guardAccepts (p.cellState i c) (v.setWidth 8) = true := fun h' => h ((guardAccepts_iff _ _).mp h')
  simp only [Part.guardedWrite, if_neg refused]
  rfl

theorem cellStateWrite_refused {s : State} {i : StationId} {c : CellId} {v : Word} (hr : s.part.Runs)
    (h : ¬R9Accepts (s.part.cellState i c) (v.setWidth 8)) :
    Leaves (.hostCellStateWrite i c v) s
      { s.part with
        guardLog := s.part.guardLog.refuse (Config.cell i c) (v.setWidth 8) (s.part.cellState i c)
        attn := s.part.attn ||| (1#22 <<< 20) } :=
  leaves_event (fun p => p.guardedWrite i c v) rfl hr (guardedWrite_refused h) rfl rfl

/-- No word of a cell but its first is a cell state word. -/
theorem stateWordAt_parameter (i : StationId) (c : CellId) (n : Nat) (h1 : 1 ≤ n) (h2 : n ≤ 15) :
    stateWordAt (Config.cell i c + 4 * n) = none := by
  have station : (Config.cell i c + 4 * n - 0x1000) / 0x1400 = i.val := by
    simp only [Config.cell, Config.page]
    omega
  have within : (Config.cell i c + 4 * n - 0x1000) % 0x1400 = 0x100 + 64 * c.val + 4 * n := by
    simp only [Config.cell, Config.page]
    omega
  have above := cell_bounds i c
  have inner : ¬(0x100 + 64 * c.val + 4 * n - 0x100) % 64 = 0 := by omega
  unfold stateWordAt
  rw [if_neg (by omega), station, within]
  simp only [index, i.isLt, dif_pos, inner, if_false]
  split <;> rfl

/-- Settles O16: an accepted pairing is stored whole, any other refused, and the other fifteen words of a cell are
plain memory. -/
theorem guardChecksHostWrites : Obligations.GuardChecksHostWrites := by
  refine ⟨fun s i c v hr hw => ⟨fun accepted => ?_, fun refused => ?_⟩, fun s i c n v hr hw h1 h2 => ?_⟩
  · have inside : Config.cell i c + 4 ≤ Config.memoryEnd := by
      have := cell_bounds i c
      simp only [Config.memoryEnd]
      omega
    exact ⟨_, leaves_event (fun p => p.guardedWrite i c v) rfl hr (guardedWrite_accepted accepted) rfl rfl,
      word_writeLE_same v hw inside, writeLE_sameOutside _ _ _ _⟩
  · exact ⟨_, cellStateWrite_refused hr refused⟩
  · have bounds := cell_bounds i c
    have offset : 4 * (BitVec.ofNat 14 ((Config.cell i c + 4 * n) / 4)).toNat = Config.cell i c + 4 * n := by
      rw [BitVec.toNat_ofNat]
      omega
    have memory : registerAt (BitVec.ofNat 14 ((Config.cell i c + 4 * n) / 4)) = none := by
      rw [registerAt_none]
      simp only [Config.firstRegister]
      omega
    have inside : Config.cell i c + 4 * n + 4 ≤ Config.memoryEnd := by
      simp only [Config.memoryEnd]
      omega
    have stored := hostMemoryWrite_leaves v hr memory (by rw [offset]; exact stateWordAt_parameter i c n h1 h2)
    rw [offset] at stored
    exact ⟨_, stored, word_writeLE_same v hw inside, writeLE_sameOutside _ _ _ _⟩

/-! ### GUARDLOG -/

/-- The bits of GUARDLOG as read (01 section 1.3). -/
theorem guardLog_word_bit (g : GuardLog) (n : Nat) :
    g.word.getLsbD n =
      if n < 16 then g.offset.getLsbD n else if n < 24 then g.written.getLsbD (n - 16)
      else if n < 27 then g.found.getLsbD (n - 24) else decide (n = 31) && g.multi := by
  have top : ((if g.multi then 1 else 0 : Word) <<< 31).getLsbD n = (decide (n = 31) && g.multi) := by
    have within : ∀ b : Bool, ∀ k < 32,
        ((if b then 1 else 0 : Word) <<< 31).getLsbD k = (decide (k = 31) && b) := by decide
    rcases Nat.lt_or_ge n 32 with h | h
    · exact within g.multi n h
    · rw [BitVec.getLsbD_of_ge _ _ h]
      simp [show n ≠ 31 by omega]
  have above : ∀ {w : Nat} (x : BitVec w) (k : Nat), w ≤ k → x.getLsbD k = false :=
    fun x k h => BitVec.getLsbD_of_ge x k h
  simp only [GuardLog.word, BitVec.getLsbD_or, BitVec.getLsbD_shiftLeft, BitVec.getLsbD_setWidth, top]
  split
  · simp [show n < 32 by omega, show n < 24 by omega, show n ≠ 31 by omega, *]
  · split
    · simp [show n < 32 by omega, show n ≠ 31 by omega, show n - 16 < 32 by omega, above g.offset n (by omega), *]
    · have written := above g.written (n - 16) (by omega)
      split
      · simp [show n < 32 by omega, show n ≠ 31 by omega, show n - 24 < 32 by omega, above g.offset n (by omega), *]
      · simp [above g.offset n (by omega), written, above g.found (n - 24) (by omega)]

/-- The fields of GUARDLOG as read (01 section 1.3). -/
theorem guardLog_word_fields (g : GuardLog) :
    g.word.extractLsb' 0 16 = g.offset ∧ g.word.extractLsb' 16 8 = g.written ∧
    g.word.extractLsb' 24 3 = g.found ∧ g.word.getLsbD 31 = g.multi ∧ g.word.extractLsb' 27 4 = 0 := by
  refine ⟨?_, ?_, ?_, ?_, ?_⟩
  · refine BitVec.eq_of_getLsbD_eq fun k hk => ?_
    simp [-BitVec.getLsbD_eq_getElem, guardLog_word_bit, hk]
  · refine BitVec.eq_of_getLsbD_eq fun k hk => ?_
    simp [-BitVec.getLsbD_eq_getElem, guardLog_word_bit, hk, show 16 + k < 24 by omega]
  · refine BitVec.eq_of_getLsbD_eq fun k hk => ?_
    simp [-BitVec.getLsbD_eq_getElem, guardLog_word_bit, hk, show ¬24 + k < 16 by omega, show 24 + k < 27 by omega]
  · simp [-BitVec.getLsbD_eq_getElem, guardLog_word_bit]
  · refine BitVec.eq_of_getLsbD_eq fun k hk => ?_
    simp [-BitVec.getLsbD_eq_getElem, guardLog_word_bit, hk, show ¬27 + k < 16 by omega, show ¬27 + k < 24 by omega,
      show 27 + k ≠ 31 by omega]

/-- Settles O17: a refused cell state write is the guard's record of it, the log's word shows its four fields bit by
bit, and a reset of any kind leaves the log of the reset state. -/
theorem guardLogKeepsLastRefusal : Obligations.GuardLogKeepsLastRefusal := by
  refine ⟨fun s i c v hr refused => ⟨cellStateWrite_refused hr refused, ?_, ?_⟩, fun s hr => ?_,
    guardLog_word_fields, by decide, fun s t c hc h => (exec_beginsReset hc h).2.2.2⟩
  · have := cell_bounds i c
    omega
  · have := cell_bounds i c
    omega
  · show Host.Outcome.next { s with part := s.part.readGuardLog } = _
    simp [Part.readGuardLog, hr]

end Sys2Proof.Machine
end

