-- ==== Sys2Proof/Proofs/Registers.lean ====
section
/-! The register window: what each register reads, and what a write to it stores. -/

namespace Sys2Proof.Machine

/-! ### Reads -/

theorem rackctl_bits (p : Part) (k : Nat) (hk : k < 32) :
    p.rackctl.getLsbD k = if k = 0 then p.enabled else if k = 1 then p.sweepRequested else false := by
  have bits : ∀ enabled requested : Bool, ∀ k < 32,
      ((if enabled then 1 else 0 : Word) ||| (if requested then 2 else 0)).getLsbD k =
        if k = 0 then enabled else if k = 1 then requested else false := by decide
  exact bits _ _ k hk

/-- Four codes of four bits in one word. -/
theorem nibbles_extract (code : StationId → BitVec 4) (i : StationId) :
    (stationIds.foldl (fun w j => w ||| ((code j).setWidth 32 <<< (4 * j.val))) (0 : Word)).extractLsb'
      (4 * i.val) 4 = code i := by
  refine BitVec.eq_of_getLsbD_eq fun k hk => ?_
  simp only [stationIds, List.foldl]
  fin_cases i <;> interval_cases k <;> simp

theorem nibbles_high (code : StationId → BitVec 4) :
    (stationIds.foldl (fun w j => w ||| ((code j).setWidth 32 <<< (4 * j.val))) (0 : Word)).extractLsb' 16 16 = 0 := by
  refine BitVec.eq_of_getLsbD_eq fun k hk => ?_
  simp only [stationIds, List.foldl]
  interval_cases k <;> simp

theorem stationState_code_toNat (st : StationState) :
    st.code.toNat =
      match st with
      | .off => 0 | .idle => 1 | .busy => 2 | .waiting => 3 | .stopped => 4 | .faulted => 5 := by
  cases st <;> rfl

/-- STNCTL reads the state code of each station in its four bits, and 0 above them (R7). -/
theorem stnctl_code (p : Part) (i : StationId) :
    (p.stnctl.extractLsb' (4 * i.val) 4).toNat =
      match (p.station i).walker.state with
      | .off => 0 | .idle => 1 | .busy => 2 | .waiting => 3 | .stopped => 4 | .faulted => 5 := by
  rw [← stationState_code_toNat, Part.stnctl, nibbles_extract fun j => (p.station j).walker.state.code]

theorem stnctl_high (p : Part) : p.stnctl.extractLsb' 16 16 = 0 := by
  rw [Part.stnctl, nibbles_high fun j => (p.station j).walker.state.code]

theorem setWidth_bit (b : BitVec 22) (k : Nat) (hk : k < 32) :
    (b.setWidth 32).getLsbD k = if k < 22 then b.getLsbD k else false := by
  rw [BitVec.getLsbD_setWidth]
  split
  · simp [hk]
  · rw [BitVec.getLsbD_of_ge _ _ (by omega)]
    simp

/-! ### Writes -/

/-- A write to RACKCTL that changes neither ENABLE nor resets stores SWEEPMODE and starts or stops the timer. -/
theorem writeControl_mode {p : Part} {v : Word} (raw : RawLevels) (he : asksEnable v = p.enabled) :
    p.writeControl v raw =
      { p with
        sweepRequested := v.getLsbD 1
        sweepBase :=
          if p.enabled = false ∨ v.getLsbD 1 = true then none
          else if p.sweepRequested = true then some p.rackTime
          else p.sweepBase } := by
  have unchanged : writtenEnable v = p.enabled := he
  have timer : sweepTimer p p (v.getLsbD 1) =
      if p.enabled = false ∨ v.getLsbD 1 = true then none
      else if p.sweepRequested = true then some p.rackTime
      else p.sweepBase := by
    unfold sweepTimer
    cases p.enabled <;> cases v.getLsbD 1 <;> cases p.sweepRequested <;> rfl
  have stays : (if writtenEnable v && !p.enabled then p.tryEnable raw
      else if !writtenEnable v && p.enabled then p.disable else p) = p := by
    rw [unchanged]
    cases p.enabled <;> rfl
  unfold Part.writeControl
  dsimp only
  rw [stays, ← timer]
  rfl

/-- Settles O18: register by register. -/
theorem registerWritesTakeTheirBits : Obligations.RegisterWritesTakeTheirBits := by
  refine ⟨fun p => ?_, fun s r v hr hi => ?_, fun s v hr => ?_, fun s v hr => ?_, fun s v hr h0 he => ?_⟩
  · have read : ∀ (n : Nat) (r : Register), registerAt (BitVec.ofNat 14 (0xFFE0 / 4 + n)) = some r →
        p.hostRead (BitVec.ofNat 14 (0xFFE0 / 4 + n)) = p.readRegister r := fun _ _ h => hostRead_register h
    dsimp only
    rw [read 0 .ident (by decide), read 1 .rackctl (by decide), read 2 .sweep (by decide),
      read 3 .stnctl (by decide), read 4 .attn (by decide), read 5 .attnmask (by decide),
      read 6 .racktime (by decide), read 7 .guardlog (by decide)]
    exact ⟨rfl, rackctl_bits p, rfl, stnctl_code p, stnctl_high p, setWidth_bit p.attn, setWidth_bit p.attnMask,
      rfl, rfl, rfl, rfl, rfl, rfl, rfl, rfl, rfl, rfl⟩
  · have ignored : exec (.registerWriteIgnored r v) s = s.event fun q => q := by
      cases r with
      | ident | racktime | guardlog => rfl
      | rackctl | sweep | stnctl | attn | attnmask => cases hi
    exact leaves_event _ ignored hr rfl rfl rfl
  · exact leaves_event (fun p => p.writeAttn v) rfl hr rfl rfl rfl
  · exact leaves_event (fun p => p.writeAttnMask v) rfl hr rfl rfl rfl
  · have written := writeControl_mode (p := s.part) s.part.heldLevels he
    have closed := commit_same s.part (s.part.writeControl v s.part.heldLevels) (by rw [written]) (by rw [written])
    show Host.Outcome.next { s with part := s.part.rackctlWrite v s.part.heldLevels } = _
    rw [rackctl_runs _ _ _ hr h0, closed, written]

end Sys2Proof.Machine
end

