-- ==== Sys2Proof/Proofs/Sweeps.lean ====
section
/-! Sweeps and examinations (R15 to R17, R21 to R24, R31). -/

namespace Sys2Proof.Machine

/-! ### A sweep at one station -/

/-- What a sweep does at one station. -/
def Part.sweepAt (i : StationId) (p : Part) : Part :=
  if (p.station i).walker.state = .idle then p.chain i else p

theorem sweep_eq (p : Part) : p.sweep = ([0, 1, 2, 3] : List StationId).foldl (fun q i => q.sweepAt i) p := rfl

theorem sweepAt_local (p : Part) (i : StationId) : Part.Local i p (p.sweepAt i) := sweepStation_local p i

theorem sweepAt_idle {p : Part} {i : StationId} (h : (p.station i).walker.state = .idle) :
    p.sweepAt i = p.chain i := if_pos h

theorem sweepAt_other {p : Part} {i : StationId} (h : (p.station i).walker.state ≠ .idle) : p.sweepAt i = p :=
  if_neg h

/-- A station that is not IDLE stands through a sweep of any stations. -/
theorem sweepAt_fold_station (l : List StationId) (p : Part) (i : StationId)
    (h : (p.station i).walker.state ≠ .idle) : (l.foldl (fun q j => q.sweepAt j) p).station i = p.station i := by
  induction l generalizing p with
  | nil => rfl
  | cons j l ih =>
    have stands : (p.sweepAt j).station i = p.station i := by
      by_cases hj : i = j
      · subst hj
        rw [sweepAt_other h]
      · exact (sweepAt_local p j).others i hj
    rw [List.foldl_cons, ih _ (by rw [stands]; exact h), stands]

/-- A sweep of stations none of which is IDLE changes nothing. -/
theorem sweepAt_fold_other (l : List StationId) (p : Part)
    (h : ∀ j ∈ l, (p.station j).walker.state ≠ .idle) : l.foldl (fun q j => q.sweepAt j) p = p := by
  induction l with
  | nil => rfl
  | cons j l ih =>
    rw [List.foldl_cons, sweepAt_other (h j (List.mem_cons_self ..))]
    exact ih fun k hk => h k (List.mem_cons_of_mem _ hk)

/-- A sweep that finds one station IDLE is the examination of that station. -/
theorem sweep_single {p : Part} {i : StationId} (h : (p.station i).walker.state = .idle)
    (others : ∀ j, j ≠ i → (p.station j).walker.state ≠ .idle) : p.sweep = p.chain i := by
  obtain ⟨before, after, order, hb, ha⟩ :
      ∃ before after : List StationId, [0, 1, 2, 3] = before ++ i :: after ∧ i ∉ before ∧ i ∉ after := by
    fin_cases i
    · exact ⟨[], [1, 2, 3], rfl, by decide, by decide⟩
    · exact ⟨[0], [2, 3], rfl, by decide, by decide⟩
    · exact ⟨[0, 1], [3], rfl, by decide, by decide⟩
    · exact ⟨[0, 1, 2], [], rfl, by decide, by decide⟩
  have stands : ∀ j, j ≠ i → ((p.chain i).station j).walker.state ≠ .idle := fun j hj => by
    rw [(chain_local p i).others j hj]
    exact others j hj
  rw [sweep_eq, order, List.foldl_append,
    sweepAt_fold_other before p fun j hj => others j fun e => hb (e ▸ hj), List.foldl_cons, sweepAt_idle h]
  exact sweepAt_fold_other after _ fun j hj => stands j fun e => ha (e ▸ hj)

/-- An IDLE station with nothing to take becomes what it is. -/
theorem becomeIdle_same {p : Part} {i : StationId} (h : (p.station i).walker.state = .idle)
    (hr : (p.station i).walker.holdReason = .ok) : p.becomeIdle i = p := by
  refine modify_same p i _ ?_
  dsimp only
  rw [← h, ← hr]

/-- A sweep that finds every IDLE station with nothing to take changes nothing. -/
theorem sweep_waits {p : Part}
    (h : ∀ i, (p.station i).walker.state = .idle → p.RingWaits i ∧ (p.station i).walker.holdReason = .ok) :
    p.sweep = p := by
  have each : ∀ i, p.sweepAt i = p := fun i => by
    by_cases idle : (p.station i).walker.state = .idle
    · obtain ⟨waits, reason⟩ := h i idle
      rw [sweepAt_idle idle, chain_waits p i waits, becomeIdle_same idle reason]
    · exact sweepAt_other idle
  simp only [sweep_eq, List.foldl, each]

/-! ### Examinations -/

/-- When a completion stops the station (R31). -/
theorem stops_iff (r : Result) (flags : Byte) :
    r.stops flags = true ↔
      (r.verdict = .error ∨
        (r.verdict = .fail ∧ (hasFlag flags flagStopFail = true ∨ r.reason = .operatorStop))) := by
  cases h : r.verdict <;> simp [Result.stops, h]

section
variable {p : Part} {i : StationId} (n : Nat)

theorem examine_full (h : (p.station i).walker.run.state = .opened ∧ (p.station i).walker.run.taken = 65535) :
    Part.examine (n + 1) p i = p.enterStopped i .runOpen := by
  rw [Part.examine]
  exact if_pos h

variable (hf : ¬((p.station i).walker.run.state = .opened ∧ (p.station i).walker.run.taken = 65535))

include hf

theorem examine_waits (hc : p.cellState i (p.station i).walker.position ≠ cellReady) :
    Part.examine (n + 1) p i = p.becomeIdle i := by
  rw [Part.examine]
  dsimp only
  rw [if_neg hf, if_neg hc]

variable (hc : p.cellState i (p.station i).walker.position = cellReady)

include hc

/-- A step that does not end at its take is in flight. -/
theorem examine_begins (hb : ((p.takeStep i).1.startStep i (p.takeStep i).2).2 = none) :
    Part.examine (n + 1) p i = ((p.takeStep i).1.startStep i (p.takeStep i).2).1 := by
  rw [Part.examine]
  dsimp only
  rw [if_neg hf, if_pos hc]
  generalize (p.takeStep i).1.startStep i (p.takeStep i).2 = o at hb
  obtain ⟨q, _ | r⟩ := o
  · rfl
  · cases hb

/-- A step that ends at its take completes, and stops the station or has it examine its next cell. -/
theorem examine_ends {r : Result} {t : Step}
    (hb : ((p.takeStep i).1.startStep i (p.takeStep i).2).2 = some r)
    (ht : (((p.takeStep i).1.startStep i (p.takeStep i).2).1.station i).walker.step = some t) :
    Part.examine (n + 1) p i =
      if r.stops t.flags then
        (((p.takeStep i).1.startStep i (p.takeStep i).2).1.completeMain i t r).enterStopped i r.reason
      else Part.examine n (((p.takeStep i).1.startStep i (p.takeStep i).2).1.completeMain i t r) i := by
  rw [Part.examine]
  dsimp only
  rw [if_neg hf, if_pos hc]
  generalize (p.takeStep i).1.startStep i (p.takeStep i).2 = o at hb ht
  obtain ⟨q, _ | r'⟩ := o
  · cases hb
  · cases hb
    simp only [ht, Option.getD_some]

end

/-! ### The take of a WAIT -/

/-- The low bytes of a little-endian number. -/
theorem readLE_add (m : Memory) (x n k : Nat) : m.readLE x (n + k) = m.readLE x n + 256 ^ n * m.readLE (x + n) k := by
  induction n generalizing x with
  | zero => simp [Memory.readLE]
  | succ n ih =>
    rw [show n + 1 + k = (n + k) + 1 by omega, Memory.readLE, Memory.readLE, ih, show x + 1 + n = x + (n + 1) by omega]
    ring

theorem readLE_lt (m : Memory) (x n : Nat) : m.readLE x n < 256 ^ n := by
  induction n generalizing x with
  | zero => simp [Memory.readLE]
  | succ n ih =>
    have byte := (m.read x).isLt
    have rest := ih (x + 1)
    rw [Memory.readLE, pow_succ']
    omega

/-- The first parameter word of a step copy is the word of the cell. -/
theorem copyStep_firstWord (p : Part) (i : StationId) (c : CellId) (counted : Bool) :
    field (p.copyStep i c counted).params 4 4 = p.u32 (Config.cell i c + 4) := by
  have low : p.mem.readLE (Config.cell i c + 4) 32 = _ := readLE_add p.mem (Config.cell i c + 4) 4 28
  have small := readLE_lt p.mem (Config.cell i c + 4) 4
  simp only [field, Part.copyStep, Part.u32, BitVec.extractLsb'_toNat, BitVec.toNat_ofNat, Nat.sub_self, Nat.mul_zero,
    Nat.shiftRight_zero]
  omega

/-- The take of a cell that holds a WAIT of a lawful duration leaves the step waiting (R45). -/
theorem takeStep_wait {p : Part} {i : StationId}
    (hk : p.mem.read (Config.cell i (p.station i).walker.position + 1) = 0x03)
    (h1 : 1 ≤ p.u32 (Config.cell i (p.station i).walker.position + 4))
    (h2 : p.u32 (Config.cell i (p.station i).walker.position + 4) ≤ 600000) :
    (p.takeStep i).1.startStep i (p.takeStep i).2 =
      ((p.takeStep i).1.setWork i (.wait (p.u32 (Config.cell i (p.station i).walker.position + 4))), none) := by
  have kind : Kind.ofCode (p.takeStep i).2.kind = some .wait := by
    rw [show (p.takeStep i).2.kind = p.mem.read (Config.cell i (p.station i).walker.position + 1) from rfl, hk]
    rfl
  have word : field (p.takeStep i).2.params 4 4 = p.u32 (Config.cell i (p.station i).walker.position + 4) :=
    copyStep_firstWord p i _ _
  have params : waitParams (p.takeStep i).2.params =
      some (p.u32 (Config.cell i (p.station i).walker.position + 4)) := by
    simp only [waitParams, word]
    simp [h1, h2]
  simp only [Part.startStep, kind, Part.startWait, params]

/-- Settles O23: a sweep event is followed station by station through the fold over the stations, and an examination
through the branches it can take: a full run, a cell that is not READY, a step that stays in flight, one that ends. -/
theorem sweepsReachIdleStations : Obligations.SweepsReachIdleStations := by
  refine ⟨fun s v hr he => ?_, fun s v hr he => ?_, fun s start hr hb hp => ?_,
    fun p i h => sweepAt_fold_station _ p i h, fun p h => sweep_waits h, fun p => rfl, fun p i => rfl,
    fun n p i => ⟨examine_full n, examine_waits n, examine_begins n, fun r t hf hc hb ht => ?_⟩,
    fun p i h others hc hf hk hd => ?_⟩
  · exact answers_event (fun p => if p.enabled then p.sweep else p) rfl hr (if_pos he)
  · exact leaves_event (fun p => if p.enabled then p.sweep else p) rfl hr (if_neg (by simp [he])) rfl rfl
  · refine answers_event Part.periodicSweep rfl hr ?_
    have passed : s.part.passed start s.part.config.sweepInterval = true := decide_eq_true hp
    simp only [Part.periodicSweep, hb, passed, if_true]
  · have ends := examine_ends n hf hc hb ht
    constructor
    · intro stops
      rw [ends, if_pos ((stops_iff r t.flags).mpr stops)]
      rfl
    · intro goes
      rw [ends, if_neg fun stops => goes ((stops_iff r t.flags).mp stops)]
  · have waits := takeStep_wait hk hd.1 hd.2
    rw [sweep_single h others]
    exact (examine_begins 32 hf hc (by rw [waits])).trans (by rw [waits])

end Sys2Proof.Machine
end

