-- ==== Sys2Proof/Proofs/ResetState.lean ====
section
/-! The state right after a reset: what it reads as, and the laws it meets. -/

namespace Sys2Proof.Machine

theorem reset_station (i : StationId) : State.reset.part.station i = Station.reset := by
  simp [State.reset, Part.reset, Part.station]

theorem reset_panelLaw : State.reset.part.PanelLaw where
  once := List.nodup_nil
  notices := fun e he => nomatch he
  prompts := fun e he => nomatch he
  reruns := fun i t h => by rw [reset_station] at h; cases h
  steps := fun i => by rw [reset_station]; rfl
  dark := fun _ i => by rw [reset_station]; rfl

theorem reset_convLaw : State.reset.part.ConvLaw := fun i h => by
  have free : State.reset.part.conv.queue[i] = none := by
    simp [State.reset, Part.reset, Converter.reset]
  rw [free] at h
  cases h

theorem reset_dueLaw : State.reset.part.DueLaw := fun i => by
  rw [reset_station]
  exact ⟨List.nodup_nil, fun _ => ⟨rfl, rfl⟩, (nomatch ·), (nomatch ·)⟩

theorem reset_pulseLaw : State.reset.part.PulseLaw := fun i k => by
  have parked : Station.reset.st.pg[k] = PulseGen.park := by simp [Station.reset, Stimulus.park]
  rw [reset_station, parked]
  exact ⟨.inl ⟨rfl, rfl⟩, fun c h => nomatch h⟩

/-- Settles O2: the registers and the two settled outputs are evaluated; a law of the stations is a law of the one
reset column they share. -/
theorem resetStateIsLawful : Obligations.ResetStateIsLawful := by
  refine ⟨fun r hr => ?_, rfl, rfl, by decide, reset_mem_wf, fun i => ?_, fun i => ?_, ⟨fun i => ?_, fun i => ?_,
    fun _ i => ?_⟩, ⟨fun i => ?_, fun i => ?_⟩, ⟨by decide, by decide⟩, reset_panelLaw, reset_convLaw,
    reset_dueLaw, reset_pulseLaw, fun i => ?_⟩
  · cases r with
    | ident => exact absurd rfl hr
    | rackctl | sweep | stnctl | attn | attnmask | racktime | guardlog => decide
  all_goals rw [reset_station]
  · rfl
  · decide
  · rfl
  · rfl
  · rfl
  · rfl
  · rfl
  · exact ⟨rfl, rfl, rfl, rfl, rfl, rfl⟩

end Sys2Proof.Machine
end

