-- ==== Sys2Proof/Proofs/RackTime.lean ====
section
/-! One millisecond of rack time (R5, R50, R51, R139, R174, R180): the records of the inputs that changed, the
debouncers, and nothing else. -/

namespace Sys2Proof.Machine

/-! ### Events no header shows -/

theorem publish_hidden (m : Memory) (i : StationId) {x y : Station} (h : y.header = x.header) :
    m.publish i x y 0 = m := by
  unfold Memory.publish
  rw [h, dueWords_same]
  split <;> rfl

/-- An event that leaves every header as it was, and marks nothing, settles the outputs and no more. -/
theorem commit_hidden {p q : Part} (h : ∀ i, (q.station i).header = (p.station i).header)
    (ht : q.touched = p.touched) : Part.commit p q = q.settle := by
  have m : ∀ i, Part.marked p q i = 0 := fun i => marked_same p q i ht
  simp only [Part.commit, stationIds, List.foldl, m, publish_hidden _ _ (h _), ← ht]

/-! ### Parts of a number in memory -/

/-- The low and the high bytes of a number read from memory. -/
theorem readLE_parts {m : Memory} {x n k v : Nat} (h : m.readLE x (n + k) = v) :
    m.readLE x n = v % 256 ^ n ∧ m.readLE (x + n) k = v / 256 ^ n := by
  have low := readLE_lt m x n
  rw [← h, readLE_add]
  constructor
  · rw [Nat.add_mul_mod_self_left, Nat.mod_eq_of_lt low]
  · rw [Nat.add_mul_div_left _ _ (Nat.pos_of_ne_zero (by positivity)), Nat.div_eq_of_lt low, Nat.zero_add]

theorem read_of_readLE_one {m : Memory} {x v : Nat} (h : m.readLE x 1 = v) : m.read x = n8 v := by
  refine BitVec.eq_of_toNat_eq ?_
  simp only [Memory.readLE, Nat.mul_zero, Nat.add_zero] at h
  simp [n8, ← h]

theorem word2_toNat (a b : BitVec 16) : (word2 a b).toNat = a.toNat + 65536 * b.toNat := by
  have := a.isLt
  rw [word2, BitVec.toNat_append, ← Nat.shiftLeft_add_eq_or_of_lt a.isLt, Nat.shiftLeft_eq]
  omega

theorem word4_toNat (a b c d : Byte) :
    (word4 a b c d).toNat = a.toNat + 256 * (b.toNat + 256 * (c.toNat + 256 * d.toNat)) := by
  rw [word4, BitVec.toNat_append, BitVec.toNat_append, BitVec.toNat_append, ← Nat.shiftLeft_add_eq_or_of_lt a.isLt,
    ← Nat.shiftLeft_add_eq_or_of_lt b.isLt, ← Nat.shiftLeft_add_eq_or_of_lt c.isLt]
  simp only [Nat.shiftLeft_eq]
  omega

/-! ### The record of an input -/

/-- An input of a station. -/
abbrev InputAt := StationId × Fin 8

/-- Memory with the record of an input written (R139). -/
def Memory.writeRecord (n : InputAt → InputMonitor) (m : Memory) (c : InputAt) : Memory :=
  let x := Config.inputRecord c.1 c.2
  (((m.writeLE x 4 (word2 (n16 (n c).edges) (n16 (n c).rejected)).toNat).writeLE (x + 4) 4
    (n c).lastEdge.toNat).writeLE (x + 8) 4 (word4 (n8 (n c).filter) (n8 (n c).edgeCode) 0 0).toNat).writeLE
    (x + 12) 4 (bit (n c).level).toNat

/-- Memory holds an input's monitor in its record (12.3). -/
structure Memory.HoldsRecord (m : Memory) (c : InputAt) (n : InputMonitor) : Prop where
  edges : m.readLE (Config.inputRecord c.1 c.2) 2 = n.edges % 65536
  rejected : m.readLE (Config.inputRecord c.1 c.2 + 2) 2 = n.rejected % 65536
  lastEdge : m.readLE (Config.inputRecord c.1 c.2 + 4) 4 = n.lastEdge.toNat
  filter : m.read (Config.inputRecord c.1 c.2 + 8) = n8 n.filter
  edgeCode : m.read (Config.inputRecord c.1 c.2 + 9) = n8 n.edgeCode
  reserved : m.readLE (Config.inputRecord c.1 c.2 + 10) 2 = 0
  level : m.readLE (Config.inputRecord c.1 c.2 + 12) 4 = if n.level = true then 1 else 0

theorem inputRecord_inside (c : InputAt) : Config.inputRecord c.1 c.2 + 16 ≤ Config.memoryEnd := by
  simp only [Config.inputRecord, Config.page, Config.memoryEnd]
  omega

/-- The records of two inputs lie apart. -/
theorem inputRecord_apart {c d : InputAt} (h : c ≠ d) :
    Config.inputRecord c.1 c.2 + 16 ≤ Config.inputRecord d.1 d.2 ∨
      Config.inputRecord d.1 d.2 + 16 ≤ Config.inputRecord c.1 c.2 := by
  have differ : c.1.val ≠ d.1.val ∨ c.2.val ≠ d.2.val := by
    by_contra hn
    push Not at hn
    exact h (Prod.ext (Fin.ext hn.1) (Fin.ext hn.2))
  have hc := c.2.isLt
  have hd := d.2.isLt
  simp only [Config.inputRecord, Config.page]
  omega

section
variable (n : InputAt → InputMonitor)

theorem writeRecord_wf {m : Memory} (c : InputAt) (h : m.wf = true) : (m.writeRecord n c).wf = true :=
  writeLE_wf _ _ _ (writeLE_wf _ _ _ (writeLE_wf _ _ _ (writeLE_wf _ _ _ h)))

theorem read_writeRecord_outside (m : Memory) (c : InputAt) {a : Nat}
    (h : a < Config.inputRecord c.1 c.2 ∨ Config.inputRecord c.1 c.2 + 16 ≤ a) :
    (m.writeRecord n c).read a = m.read a := by
  simp only [Memory.writeRecord]
  rw [read_writeLE_outside _ _ _ _ _ (by omega), read_writeLE_outside _ _ _ _ _ (by omega),
    read_writeLE_outside _ _ _ _ _ (by omega), read_writeLE_outside _ _ _ _ _ (by omega)]

theorem readLE_writeRecord_outside (m : Memory) (c : InputAt) {x k : Nat}
    (h : x + k ≤ Config.inputRecord c.1 c.2 ∨ Config.inputRecord c.1 c.2 + 16 ≤ x) :
    (m.writeRecord n c).readLE x k = m.readLE x k := by
  simp only [Memory.writeRecord]
  rw [readLE_writeLE_outside _ _ _ _ _ _ (by omega), readLE_writeLE_outside _ _ _ _ _ _ (by omega),
    readLE_writeLE_outside _ _ _ _ _ _ (by omega), readLE_writeLE_outside _ _ _ _ _ _ (by omega)]

/-- A record just written holds the monitor. -/
theorem writeRecord_holds {m : Memory} (c : InputAt) (hw : m.wf = true) : (m.writeRecord n c).HoldsRecord c (n c) := by
  have inside := inputRecord_inside c
  have w1 := writeLE_wf (Config.inputRecord c.1 c.2) 4 (word2 (n16 (n c).edges) (n16 (n c).rejected)).toNat hw
  have w2 := writeLE_wf (Config.inputRecord c.1 c.2 + 4) 4 (n c).lastEdge.toNat w1
  have w3 := writeLE_wf (Config.inputRecord c.1 c.2 + 8) 4 (word4 (n8 (n c).filter) (n8 (n c).edgeCode) 0 0).toNat w2
  have counts : (m.writeRecord n c).readLE (Config.inputRecord c.1 c.2) (2 + 2) =
      (word2 (n16 (n c).edges) (n16 (n c).rejected)).toNat := by
    simp only [Memory.writeRecord]
    rw [readLE_writeLE_outside _ _ _ _ _ _ (by omega), readLE_writeLE_outside _ _ _ _ _ _ (by omega),
      readLE_writeLE_outside _ _ _ _ _ _ (by omega), readLE_writeLE_same _ _ _ hw (by omega)]
    exact Nat.mod_eq_of_lt (BitVec.isLt _)
  have time : (m.writeRecord n c).readLE (Config.inputRecord c.1 c.2 + 4) 4 = (n c).lastEdge.toNat := by
    simp only [Memory.writeRecord]
    rw [readLE_writeLE_outside _ _ _ _ _ _ (by omega), readLE_writeLE_outside _ _ _ _ _ _ (by omega),
      readLE_writeLE_same _ _ _ w1 (by omega)]
    exact Nat.mod_eq_of_lt (BitVec.isLt _)
  have codes : (m.writeRecord n c).readLE (Config.inputRecord c.1 c.2 + 8) (1 + (1 + 2)) =
      (word4 (n8 (n c).filter) (n8 (n c).edgeCode) 0 0).toNat := by
    simp only [Memory.writeRecord]
    rw [readLE_writeLE_outside _ _ _ _ _ _ (by omega), readLE_writeLE_same _ _ _ w2 (by omega)]
    exact Nat.mod_eq_of_lt (BitVec.isLt _)
  have level : (m.writeRecord n c).readLE (Config.inputRecord c.1 c.2 + 12) 4 = (bit (n c).level).toNat := by
    simp only [Memory.writeRecord]
    rw [readLE_writeLE_same _ _ _ w3 (by omega)]
    exact Nat.mod_eq_of_lt (lt_of_lt_of_le (BitVec.isLt _) (by decide))
  rw [word2_toNat] at counts
  rw [word4_toNat] at codes
  obtain ⟨edges, rejected⟩ := readLE_parts counts
  obtain ⟨filter, rest⟩ := readLE_parts codes
  obtain ⟨edgeCode, reserved⟩ := readLE_parts rest
  have half : ∀ v, (n16 v).toNat = v % 65536 := fun v => by simp [n16]
  have byte : ∀ v, (n8 v).toNat = v % 256 := fun v => by simp [n8]
  have n8_mod : ∀ v, n8 (v % 256) = n8 v := fun v => BitVec.eq_of_toNat_eq (by simp [n8])
  have zero : BitVec.toNat (0 : Byte) = 0 := rfl
  simp only [half, byte, zero] at edges rejected filter edgeCode reserved
  exact
    { edges := by rw [edges]; omega
      rejected := by rw [rejected]; omega
      lastEdge := time
      filter := by
        rw [read_of_readLE_one filter, ← n8_mod (n c).filter]
        exact congrArg n8 (by omega)
      edgeCode := by
        rw [read_of_readLE_one edgeCode, ← n8_mod (n c).edgeCode]
        exact congrArg n8 (by omega)
      reserved := by
        refine reserved.trans ?_
        omega
      level := by
        rw [level]
        cases (n c).level <;> rfl }

/-- A record keeps what it holds while another is written. -/
theorem writeRecord_keeps {m : Memory} {c d : InputAt} (h : c ≠ d) (hc : m.HoldsRecord c (n c)) :
    (m.writeRecord n d).HoldsRecord c (n c) := by
  have apart := inputRecord_apart h
  constructor
  · rw [readLE_writeRecord_outside n m d (by omega)]; exact hc.edges
  · rw [readLE_writeRecord_outside n m d (by omega)]; exact hc.rejected
  · rw [readLE_writeRecord_outside n m d (by omega)]; exact hc.lastEdge
  · rw [read_writeRecord_outside n m d (by omega)]; exact hc.filter
  · rw [read_writeRecord_outside n m d (by omega)]; exact hc.edgeCode
  · rw [readLE_writeRecord_outside n m d (by omega)]; exact hc.reserved
  · rw [readLE_writeRecord_outside n m d (by omega)]; exact hc.level

/-- After the records of a list of inputs have been written each of them holds its monitor. -/
theorem writeRecords_hold (l : List InputAt) {m : Memory} {c : InputAt} (hw : m.wf = true)
    (h : c ∈ l ∨ m.HoldsRecord c (n c)) : (l.foldl (Memory.writeRecord n) m).HoldsRecord c (n c) := by
  induction l generalizing m with
  | nil => exact h.resolve_left (List.not_mem_nil)
  | cons d l ih =>
    refine ih (writeRecord_wf n d hw) ?_
    by_cases same : c = d
    · subst same
      exact .inr (writeRecord_holds n c hw)
    · rcases h with h | h
      · exact .inl ((List.mem_cons.mp h).resolve_left same)
      · exact .inr (writeRecord_keeps n same h)

theorem read_writeRecords_outside (l : List InputAt) (m : Memory) {a : Nat}
    (h : ∀ c ∈ l, a < Config.inputRecord c.1 c.2 ∨ Config.inputRecord c.1 c.2 + 16 ≤ a) :
    (l.foldl (Memory.writeRecord n) m).read a = m.read a := by
  induction l generalizing m with
  | nil => rfl
  | cons d l ih =>
    rw [List.foldl_cons, ih _ fun c hc => h c (List.mem_cons_of_mem _ hc)]
    exact read_writeRecord_outside n m d (h d (List.mem_cons_self ..))

end

/-! ### The inputs at the end of a ms -/

/-- The monitor of an input, by the station columns. -/
def monitorOf (col : StationId → Station) (c : InputAt) : InputMonitor := (col c.1).aq.inputs[c.2]

/-- The inputs of a station whose records the end of a ms writes: those that changed, at a station that is not OFF. -/
def Station.changedInputs (x : Station) (i : StationId) : List InputAt :=
  if x.walker.state = .off then [] else (inputIds.filter fun k => x.aq.inputs[k].changed).map fun k => (i, k)

theorem mem_changedInputs {x : Station} {i : StationId} {c : InputAt} :
    c ∈ x.changedInputs i ↔ c.1 = i ∧ x.walker.state ≠ .off ∧ x.aq.inputs[c.2].changed = true := by
  obtain ⟨j, k⟩ := c
  unfold Station.changedInputs
  split
  · simp [*]
  · simp only [List.mem_map, List.mem_filter, inputIds, List.mem_finRange, true_and, Prod.mk.injEq]
    constructor
    · rintro ⟨k', hk, rfl, rfl⟩
      exact ⟨rfl, ‹_›, hk⟩
    · rintro ⟨rfl, -, hk⟩
      exact ⟨k, hk, rfl, rfl⟩

/-- A station column after the end of a ms. -/
def Station.msEnds (x : Station) : Station :=
  if x.walker.state = .off then x
  else { x with aq := { x.aq with inputs := mapEach (fun n => { n with changed := false }) x.aq.inputs } }

theorem msEnds_input (x : Station) (k : Fin 8) :
    x.msEnds.aq.inputs[k] =
      if x.walker.state = .off then x.aq.inputs[k] else { x.aq.inputs[k] with changed := false } := by
  unfold Station.msEnds
  split <;> simp

/-- The end of a ms changes nothing of a column but its inputs. -/
theorem msEnds_frame (x : Station) : x.msEnds = { x with aq := { x.aq with inputs := x.msEnds.aq.inputs } } := by
  unfold Station.msEnds
  split <;> rfl

/-- The end of a ms at one station. -/
def Part.inputsAt (i : StationId) (p : Part) : Part :=
  if (p.station i).walker.state = .off then p else p.writeInputs i

section
variable (col : StationId → Station)

theorem writeInput_fold (ks : List (Fin 8)) {p : Part} {i : StationId} (h : p.station i = col i) :
    ks.foldl (fun q k => if (q.station i).aq.inputs[k].changed then q.writeInput i k else q) p =
      { p with mem := ((ks.filter fun k => (col i).aq.inputs[k].changed).map fun k => (i, k)).foldl
                (Memory.writeRecord (monitorOf col)) p.mem } := by
  induction ks generalizing p with
  | nil => rfl
  | cons k ks ih =>
    have written : p.writeInput i k = { p with mem := p.mem.writeRecord (monitorOf col) (i, k) } := by
      simp only [Memory.writeRecord, monitorOf, ← h]
      rfl
    rw [List.foldl_cons, List.filter_cons, h]
    by_cases changed : (col i).aq.inputs[k].changed = true
    · rw [if_pos changed, if_pos changed, written]
      exact ih (p := { p with mem := p.mem.writeRecord (monitorOf col) (i, k) }) h
    · rw [if_neg changed, if_neg changed, ih h]

theorem inputsAt_eq {p : Part} {i : StationId} (h : p.station i = col i) :
    p.inputsAt i =
      { p with mem := ((col i).changedInputs i).foldl (Memory.writeRecord (monitorOf col)) p.mem
               stations := put p.stations i (col i).msEnds } := by
  by_cases off : (col i).walker.state = .off
  · have none : (col i).changedInputs i = [] := if_pos off
    have same : (col i).msEnds = p.station i := (if_pos off).trans h.symm
    rw [none, same, show put p.stations i (p.station i) = p.stations from put_get p.stations i]
    exact if_pos (by rw [h]; exact off)
  · simp only [Part.inputsAt, Station.changedInputs, Station.msEnds, off, h, if_false, Part.writeInputs,
      writeInput_fold col inputIds h]
    rw [← h]
    exact modify_hidden _ i _ rfl

/-- The end of a ms at the stations of a list: the records of their changed inputs are written in order, and the
inputs are marked unchanged. -/
theorem inputsAt_fold (l : List StationId) (hl : l.Nodup) {p : Part} (h : ∀ i ∈ l, p.station i = col i) :
    let q := l.foldl (fun q i => q.inputsAt i) p
    q = { p with mem := (l.flatMap fun i => (col i).changedInputs i).foldl (Memory.writeRecord (monitorOf col)) p.mem
                 stations := q.stations } ∧
    ∀ i, q.station i = if i ∈ l then (col i).msEnds else p.station i := by
  induction l generalizing p with
  | nil => exact ⟨rfl, fun i => rfl⟩
  | cons j l ih =>
    obtain ⟨fresh, hl⟩ := List.nodup_cons.mp hl
    have first := inputsAt_eq col (h j (List.mem_cons_self ..))
    have column : ∀ i, (p.inputsAt j).station i = if i = j then (col j).msEnds else p.station i := fun i => by
      rw [first]
      by_cases hi : i = j
      · subst hi
        simp [Part.station]
      · simp [Part.station, hi, Ne.symm hi]
    obtain ⟨rest, stands⟩ := ih hl (p := p.inputsAt j) fun i hi => by
      rw [column, if_neg fun e : i = j => fresh (e ▸ hi)]
      exact h i (List.mem_cons_of_mem _ hi)
    dsimp only at rest stands ⊢
    rw [List.foldl_cons]
    refine ⟨?_, fun i => ?_⟩
    · rw [rest, first, List.flatMap_cons, List.foldl_append]
    · rw [stands, column]
      by_cases hi : i = j
      · subst hi
        simp [fresh]
      · simp [hi]

end


/-! ### The tick -/

/-- The inputs whose records a ms writes. -/
def Part.msInputs (p : Part) : List InputAt := stationIds.flatMap fun i => (p.station i).changedInputs i

theorem mem_msInputs {p : Part} {c : InputAt} :
    c ∈ p.msInputs ↔ (p.station c.1).walker.state ≠ .off ∧ (p.station c.1).aq.inputs[c.2].changed = true := by
  have every : ∀ i : StationId, i ∈ stationIds := by decide
  simp only [Part.msInputs, List.mem_flatMap, mem_changedInputs]
  constructor
  · rintro ⟨i, -, rfl, h⟩
    exact h
  · exact fun h => ⟨c.1, every c.1, rfl, h⟩

/-- One ms of a part that runs, but for its fixture debouncers. -/
theorem tick_eq (p : Part) (keys : RawMs 4) :
    p.tick keys =
      { p with mem := p.msInputs.foldl (Memory.writeRecord (monitorOf p.station)) p.mem
               stations := (p.tick keys).stations
               rackTime := p.rackTime + 1
               panel := { p.panel with showing := p.panel.showing.map PanelEntry.tick
                                       keyRaw := p.countKeys keys } } ∧
    ∀ i, (p.tick keys).station i = (p.station i).msEnds := by
  obtain ⟨changes, columns⟩ := inputsAt_fold p.station stationIds (by decide) (p := p) fun _ _ => rfl
  have every : ∀ i : StationId, i ∈ stationIds := by decide
  have ends : p.eachStation (fun i q => if (q.station i).walker.state = .off then q else q.writeInputs i) =
      stationIds.foldl (fun q i => q.inputsAt i) p := rfl
  unfold Part.tick
  rw [ends]
  generalize stationIds.foldl (fun q i => q.inputsAt i) p = q at changes columns
  refine ⟨?_, fun i => (columns i).trans (if_pos (every i))⟩
  rw [changes]
  rfl

/-- A station column after a ms: its debouncers have counted, its inputs are marked unchanged. -/
def Part.afterMs (p : Part) (fixtures : Vector FixtureRaw 4) (i : StationId) : Station :=
  ({ p.station i with fx := (p.station i).fx.countRaw p.config.fixtureDebounce fixtures[i] } : Station).msEnds

/-- One ms of a part that runs. -/
theorem ms_eq (p : Part) (keys : RawMs 4) (fixtures : Vector FixtureRaw 4) :
    let q := (p.countFixtures fixtures).tick keys
    q = { p with mem := p.msInputs.foldl (Memory.writeRecord (monitorOf p.station)) p.mem
                 stations := q.stations
                 rackTime := p.rackTime + 1
                 panel := { p.panel with showing := p.panel.showing.map PanelEntry.tick
                                         keyRaw := p.countKeys keys } } ∧
    ∀ i, q.station i = p.afterMs fixtures i := by
  obtain ⟨counted, columns⟩ := countFixtures_eq p fixtures
  obtain ⟨ticked, ends⟩ := tick_eq (p.countFixtures fixtures) keys
  have inputs : (p.countFixtures fixtures).msInputs = p.msInputs := by
    simp only [Part.msInputs, columns]
    rfl
  have monitors : monitorOf (p.countFixtures fixtures).station = monitorOf p.station := by
    funext c
    simp only [monitorOf, columns]
  have pressed : (p.countFixtures fixtures).countKeys keys = p.countKeys keys := by
    have enabled : (p.countFixtures fixtures).enabled = p.enabled := by rw [counted]
    have config : (p.countFixtures fixtures).config = p.config := by rw [counted]
    have panel : (p.countFixtures fixtures).panel = p.panel := by rw [counted]
    simp only [Part.countKeys, enabled, config, panel]
  refine ⟨?_, fun i => by rw [ends, columns]; rfl⟩
  rw [inputs, monitors, pressed] at ticked
  rw [ticked, counted]

/-- The increments a fixture input's debouncer counts (R50). -/
theorem rawCount_eq {n : Nat} (r : RawMs n) (limit : Nat) (k : Fin n) (v : Nat) :
    rawCount r limit k v =
      if r.differs.getLsbD k.val = true then
        (if r.anew.getLsbD k.val = true then 1 else if v < limit then v + 1 else v)
      else 0 := rfl

/-- The fixture's debouncers after a ms (R50, R51). -/
theorem countRaw_cases (f : Fixture) (limit : Nat) (r : FixtureRaw) :
    (r.code = none → (f.countRaw limit r).codeRaw = f.codeRaw ∧
      (f.countRaw limit r).codeCount =
        if f.codeRaw = f.code then 0 else if f.codeCount < limit then f.codeCount + 1 else f.codeCount) ∧
    ∀ c, r.code = some c → (f.countRaw limit r).codeRaw = c ∧
      (f.countRaw limit r).codeCount = if c = f.code then 0 else 1 := by
  constructor
  · intro h
    by_cases same : f.codeRaw = f.code <;> simp [Fixture.countRaw, countHeld, countUp, h, same]
  · intro c h
    by_cases same : c = f.code <;> simp [Fixture.countRaw, countHeld, h, same]

/-- A station column after a ms: its debouncers and its inputs alone have moved. -/
theorem afterMs_frame (p : Part) (fixtures : Vector FixtureRaw 4) (i : StationId) :
    p.afterMs fixtures i =
      { p.station i with
        fx := (p.station i).fx.countRaw p.config.fixtureDebounce fixtures[i]
        aq := { (p.station i).aq with inputs := (p.afterMs fixtures i).aq.inputs } } := msEnds_frame _

theorem afterMs_input (p : Part) (fixtures : Vector FixtureRaw 4) (i : StationId) (k : Fin 8) :
    (p.afterMs fixtures i).aq.inputs[k] =
      if (p.station i).walker.state = .off then (p.station i).aq.inputs[k]
      else { (p.station i).aq.inputs[k] with changed := false } := msEnds_input _ k

/-- A ms answers with the part as its debouncers and the end of the ms leave it: no header word changes. -/
theorem rackTimeTick_answer (s : State) (keys : RawMs 4) (fixtures : Vector FixtureRaw 4) (h : s.part.Runs) :
    ∃ q : Part, exec (.rackTimeTick keys fixtures) s = .next { s with part := q } ∧
      q = { s.part with
            mem := s.part.msInputs.foldl (Memory.writeRecord (monitorOf s.part.station)) s.part.mem
            stations := q.stations
            rackTime := s.part.rackTime + 1
            attnPin := q.attnPin
            panel := { s.part.panel with showing := s.part.panel.showing.map PanelEntry.tick
                                         keyRaw := s.part.countKeys keys
                                         lamps := q.panel.lamps } } ∧
      ∀ i, q.station i = s.part.afterMs fixtures i := by
  obtain ⟨ticked, ends⟩ := ms_eq s.part keys fixtures
  have runs : s.part.rackTick keys fixtures = (s.part.countFixtures fixtures).tick keys := by
    simp [Part.rackTick, h]
  have answer : exec (.rackTimeTick keys fixtures) s =
      .next { s with part := Part.commit s.part (s.part.rackTick keys fixtures) } := rfl
  rw [runs] at answer
  generalize (s.part.countFixtures fixtures).tick keys = q at ticked ends answer
  have headers : ∀ i, (q.station i).header = (s.part.station i).header := fun i => by
    rw [ends, afterMs_frame]
    rfl
  have marks : q.touched = s.part.touched := by rw [ticked]
  rw [commit_hidden headers marks] at answer
  refine ⟨q.settle, answer, ?_, ends⟩
  rw [Part.settle, ticked]

/-- Settles O34: the tick is its debouncers' count, the records of the changed inputs and the panel's counts; no
header word changes with them. -/
theorem rackTimeTicks : Obligations.RackTimeTicks := by
  refine ⟨fun s keys fixtures hr hw => ?_, fun e hn => ?_, fun s keys fixtures hr ht t h => ?_⟩
  · obtain ⟨q, answer, whole, columns⟩ := rackTimeTick_answer s keys fixtures hr
    have mem : q.mem = s.part.msInputs.foldl (Memory.writeRecord (monitorOf s.part.station)) s.part.mem := by
      rw [whole]
    refine ⟨q, answer, by rw [whole], by rw [whole], by rw [whole], by rw [whole], by rw [whole], by rw [whole],
      by rw [whole], fun k => ?_, fun i k on changed => ?_, fun a outside => ?_, fun i => ?_⟩
    · have keyRaw : q.panel.keyRaw = s.part.countKeys keys := by rw [whole]
      rw [keyRaw]
      cases he : s.part.enabled <;> simp [Part.countKeys, he, rawCount_eq]
    · have held := writeRecords_hold (monitorOf s.part.station) s.part.msInputs (c := (i, k)) hw
        (.inl (mem_msInputs.mpr ⟨on, changed⟩))
      rw [← mem] at held
      exact ⟨held.edges, held.rejected, held.lastEdge, held.filter, held.edgeCode, held.reserved, held.level⟩
    · rw [mem]
      refine read_writeRecords_outside _ _ _ fun c hc => ?_
      obtain ⟨on, changed⟩ := mem_msInputs.mp hc
      exact outside c.1 c.2 on changed
    · obtain ⟨same, anew⟩ := countRaw_cases (s.part.station i).fx s.part.config.fixtureDebounce fixtures[i]
      have inputs := afterMs_input s.part fixtures i
      rw [afterMs_frame] at inputs
      rw [columns, afterMs_frame]
      exact ⟨rfl, ⟨fun k => (countRaw_raw _ _ _ _).trans (rawCount_eq _ _ _ _), rfl, same, anew⟩, rfl, rfl, rfl, rfl,
        rfl, rfl, inputs⟩
  · have prompt : e.tick = { e with shown := e.shown + 1
                                    remaining := if e.rerun then e.remaining else e.remaining.map (· - 1) } := by
      simp [PanelEntry.tick, hn]
    rw [prompt]
    exact ⟨rfl, fun h => if_neg (by simp [h]), fun h => if_pos h⟩
  · obtain ⟨q, answer, whole, -⟩ := rackTimeTick_answer s keys fixtures hr
    have now : q.rackTime = s.part.rackTime + 1 := by rw [whole]
    rw [answer] at h
    cases h
    rw [now, ht]
    rfl


end Sys2Proof.Machine
end

