-- ==== Sys2Proof/Proofs/OverlongText.lean ====
section
/-! HALT and CLEAR in a part whose panel holds an entry with more than the 48 characters of the display. No command
makes such an entry, but the two statements are of any part, and their clauses about HALT and CLEAR carry no law of the
panel that excludes one: the display image of the entry that is shown next runs over the station pages, and over the
cells there. -/

namespace Sys2Proof.Machine

/-! ### What showing an entry writes -/

/-- A byte of a list that is written. -/
theorem read_writeBytes_inside {m : Memory} {x k : Nat} {bs : List Byte} (hw : m.wf = true) (hk : k < bs.length)
    (hx : x + k < Config.memoryEnd) : (m.writeBytes x bs).read (x + k) = bs[k] := by
  induction bs generalizing m x k with
  | nil => exact absurd hk (Nat.not_lt_zero k)
  | cons b bs ih =>
    rw [Memory.writeBytes]
    cases k with
    | zero =>
      show ((m.write x b).writeBytes (x + 1) bs).read x = b
      rw [read_writeBytes_outside _ _ _ _ (.inl (Nat.lt_succ_self x))]
      exact read_write_same b hw hx
    | succ k =>
      rw [show x + (k + 1) = x + 1 + k by omega]
      exact ih (write_wf _ _ hw) (Nat.lt_of_succ_lt_succ hk) (by omega)

theorem numbered_below {x : Nat} {ws : List Word} {w : Nat × Word} (h : w ∈ numbered x ws) :
    w.1 + 4 ≤ x + 4 * ws.length := by
  induction ws generalizing x with
  | nil => cases h
  | cons v ws ih =>
    rw [List.length_cons]
    rcases List.mem_cons.mp h with rfl | h
    · dsimp only
      omega
    · have := ih h
      omega

theorem queueWords_length (e : Option PanelEntry) : (queueWords e).length = 2 := by
  cases e <;> rfl

theorem showingWords_length (e : Option PanelEntry) : (showingWords e).length = 4 := by
  cases e <;> rfl

/-- The panel publishes its records below the text slots. -/
theorem read_publishPanel (p : Part) {a : Nat} (h : 0x100 ≤ a) : p.publishPanel.mem.read a = p.mem.read a := by
  refine (read_writeWords_outside _ _ _ _ fun w hw => ?_).trans (read_writeWords_outside _ _ _ _ fun w hw => ?_)
  · have := numbered_below hw
    rw [showingWords_length, Config.showingRecord] at this
    omega
  · rcases List.mem_append.mp hw with hw | hw
    · have := numbered_below hw
      simp only [List.length_append, queueWords_length, Config.queueImage] at this
      omega
    · rw [List.mem_singleton.mp hw, Config.queueLength]
      omega

/-- The text of a notice is written from the display image on, however long it is. -/
theorem read_showEntry_notice {p : Part} {e : PanelEntry} {k : Nat} (hn : e.notice.isSome = true)
    (hi : p.panel.image = none) (hw : p.mem.wf = true) (hk : k < e.text.length) (low : 0x100 ≤ Config.displayImage + k)
    (high : Config.displayImage + k < Config.memoryEnd) :
    (p.showEntry e).mem.read (Config.displayImage + k) = e.text[k] := by
  have text : ∀ q : Part, q.renderEntry e = e.text := fun q => by
    obtain ⟨r, hr⟩ := Option.isSome_iff_exists.mp hn
    simp only [Part.renderEntry, hr]
  have beeps : ∀ (q : Part) n, (q.beep n).mem = q.mem := fun _ _ => rfl
  unfold Part.showEntry
  dsimp only
  rw [if_pos hn, beeps, read_publishPanel _ low, text, Part.showText,
    if_neg (by rw [Part.setPanel, hi]; exact fun h => nomatch h)]
  exact read_writeBytes_inside hw hk high

/-- When the showing entry ends, the text of a notice that is next is written so. -/
theorem read_endShowing_notice {p : Part} {e : PanelEntry} {rest : List PanelEntry} {k : Nat}
    (hq : p.panel.queue = e :: rest) (hn : e.notice.isSome = true) (hi : p.panel.image = none) (hw : p.mem.wf = true)
    (hk : k < e.text.length) (low : 0x100 ≤ Config.displayImage + k)
    (high : Config.displayImage + k < Config.memoryEnd) :
    p.endShowing.mem.read (Config.displayImage + k) = e.text[k] := by
  rw [Part.endShowing, hq]
  exact read_showEntry_notice (p := p.setPanel fun c => { c with showing := none, queue := rest }) hn hi hw hk low high

/-! ### Withdrawals and removals of the showing entry -/

theorem withdrawPrompt_showing {p : Part} {i : StationId} {e : PanelEntry} (h : p.panel.showing = some e)
    (he : e.promptOf i = true) : p.withdrawPrompt i false = p.endShowing := by
  simp [Part.withdrawPrompt, h, he]

theorem removeNotice_showing {p : Part} {i : StationId} {e : PanelEntry} (h : p.panel.showing = some e)
    (he : e.noticeOf i = true) : p.removeNotice i = p.endShowing := by
  simp [Part.removeNotice, h, he]

/-! ### An overlong notice -/

/-- A notice of station 1 whose text runs over the first cell of station 0: 1 (READY) in its state byte, 0 elsewhere. -/
def overlongNotice : PanelEntry :=
  { noticeEntry 1 .noPart with text := (List.range 0x1080).map fun k => if k = 0x1070 then 1 else 0 }

theorem overlongNotice_byte (k : Nat) (h : k < overlongNotice.text.length) :
    overlongNotice.text[k] = if k = 0x1070 then 1 else 0 := by
  simp [overlongNotice]

theorem overlongNotice_length : overlongNotice.text.length = 0x1080 := by
  simp [overlongNotice]

/-- Once the notice shows, the first cell of station 0 reads READY, with kind code 0. -/
theorem read_overlongNotice {p : Part} (hq : p.panel.queue = [overlongNotice]) (hi : p.panel.image = none)
    (hw : p.mem.wf = true) :
    p.endShowing.cellState 0 0 = cellReady ∧ p.endShowing.mem.read (Config.cell 0 0 + 1) = 0 := by
  have byte : ∀ k, 0x1070 ≤ k → k < 0x1080 →
      p.endShowing.mem.read (Config.displayImage + k) = if k = 0x1070 then 1 else 0 := fun k low high => by
    have inside : k < overlongNotice.text.length := by rw [overlongNotice_length]; exact high
    rw [read_endShowing_notice hq rfl hi hw inside (by rw [Config.displayImage]; omega)
      (by rw [Config.displayImage, Config.memoryEnd]; omega), overlongNotice_byte k inside]
  exact ⟨byte 0x1070 (by decide) (by decide), byte 0x1071 (by decide) (by decide)⟩

/-! ### HALT -/

/-- A PROMPT of cell 1, in flight. -/
def witnessPrompt : Step :=
  { cell := 1, kind := 0x40, flags := 0, tag := 0, params := 0, takeTime := 0, counted := false, work := .prompt }

/-- A WAIT of cell 0, in flight. -/
def witnessWait : Step :=
  { cell := 0, kind := 0x03, flags := 0, tag := 0, params := 0, takeTime := 0, counted := false, work := .wait 1 }

/-- Station 0 WAITING on the PROMPT of its cell 1, which shows, with a re-run of the WAIT in its cell 0; the overlong
notice is next. -/
def haltWitness : Part :=
  { Part.reset with
    stations := put Part.reset.stations 0
      { Station.reset with
        walker := { Walker.reset with
          state := .waiting
          step := some witnessPrompt
          rerun := some witnessWait } }
    panel := { Panel.reset with showing := some { noticeEntry 0 .noPart with notice := none }
                                queue := [overlongNotice] } }

/-- An abandonment of a step writes its cell last, and of its cell alone. -/
theorem abandonStep_cellState {p : Part} {i : StationId} {cause : AbandonCause} {t : Step} {c : CellId}
    (ht : ((p.abandonRerun i cause).station i).walker.step = some t) (hc : c ≠ t.cell) :
    (p.abandonStep i cause).cellState i c = ((p.abandonRerun i cause).dropWork i t.work cause).1.cellState i c := by
  have apart : Config.cell i c + 64 ≤ Config.cell i t.cell ∨ Config.cell i t.cell + 64 ≤ Config.cell i c := by
    have : c.val ≠ t.cell.val := fun e => hc (Fin.ext e)
    simp only [Config.cell]
    omega
  have cell : ∀ (q : Part) (r : Result), (q.abandonCell i t r).mem.read (Config.cell i c) =
      q.mem.read (Config.cell i c) := fun q r => by
    simp only [Part.abandonCell, Part.writeResult, setCellState_mem, poke32_mem, poke16_mem]
    rw [read_write_other _ _ (by omega), read_writeLE_outside _ _ _ _ _ (by omega),
      read_writeLE_outside _ _ _ _ _ (by omega), read_writeLE_outside _ _ _ _ _ (by omega),
      read_writeLE_outside _ _ _ _ _ (by omega), read_writeLE_outside _ _ _ _ _ (by omega)]
  unfold Part.abandonStep Part.cellState
  dsimp only
  simp only [ht]
  exact cell _ _

theorem halt_cellState {p : Part} {i : StationId} (h : (p.station i).walker.state = .waiting) (c : CellId) :
    (p.halt i).cellState i c = (p.abandonStep i .halted).cellState i c := by
  simp only [Part.halt, h, Part.haltNotice, Part.cellState, modify_mem, setWalker_mem]

/-- What a HALT of a station WAITING on its showing PROMPT leaves in another cell: what stands there when, the re-run
abandoned, the showing has ended. -/
theorem halt_showing_cellState {p : Part} {i : StationId} {t : Step} {c : CellId} {e : PanelEntry}
    (hs : (p.station i).walker.state = .waiting)
    (ht : ((p.abandonRerun i .halted).station i).walker.step = some t) (hw : t.work = .prompt) (hc : c ≠ t.cell)
    (he : (p.abandonRerun i .halted).panel.showing = some e) (hp : e.promptOf i = true) :
    (p.halt i).cellState i c = (p.abandonRerun i .halted).endShowing.cellState i c := by
  rw [halt_cellState hs, abandonStep_cellState ht hc, hw, ← withdrawPrompt_showing he hp]
  rfl

/-- The HALT of the witness leaves the cell of its re-run READY. -/
theorem haltWitness_cell : (haltWitness.halt 0).cellState 0 0 = cellReady := by
  have canonical : (haltWitness.abandonRerun 0 .halted).mem.wf = true :=
    (abandonRerun_local haltWitness 0 .halted).canonical (by decide)
  have step : ((haltWitness.abandonRerun 0 .halted).station 0).walker.step = some witnessPrompt := rfl
  have showing : (haltWitness.abandonRerun 0 .halted).panel.showing =
      some { noticeEntry 0 .noPart with notice := none } := rfl
  exact (halt_showing_cellState rfl step rfl (by decide) showing (by decide)).trans
    (read_overlongNotice rfl rfl canonical).1

/-- Refutes O30: the HALT abandons the re-run's cell first, and then withdraws the prompt, so that the overlong notice
shows and its text overwrites that cell: it is not ABANDONED. -/
theorem not_haltStopsStation : ¬Obligations.HaltStopsStation := by
  rintro ⟨-, -, -, halts⟩
  obtain ⟨-, -, -, -, -, -, -, -, -, -, -, abandoned, -⟩ := (halts haltWitness 0).2 (.inr (.inr rfl))
  have cell := (abandoned (by decide) _ (.inr rfl)).1
  exact absurd (haltWitness_cell.symm.trans cell) (by decide)

/-! ### CLEAR -/

/-- Station 0 FAULTED, its guard closed and its notice showing; the overlong notice is next. -/
def clearWitness : Part :=
  { Part.reset with
    stations := put Part.reset.stations 0
      { Station.reset with
        walker := { Walker.reset with state := .faulted }
        fx := { Fixture.reset with levels := { Fixture.reset.levels with guard := true } } }
    panel := { Panel.reset with showing := some (noticeEntry 0 .noPart), queue := [overlongNotice] } }

/-- The CLEAR of a FAULTED station whose supply is OFF and whose run is not OPEN removes its notice and examines. -/
theorem clear_faulted {p : Part} {i : StationId} (hs : (p.station i).walker.state = .faulted)
    (hc : (p.station i).fx.clearable = true) (hp : (p.station i).ps.state = .off)
    (hr : (p.station i).walker.run.state ≠ .opened) :
    p.clear i = ((p.becomeIdle i).removeNotice i).chain i := by
  simp only [Part.clear, hs, hc, if_true, Part.clearStation, Part.supplyOff, hp, Part.closeRun, if_neg hr]

theorem takeStep_inFlight (p : Part) (i : StationId) :
    ((p.takeStep i).1.station i).walker.step = some (p.takeStep i).2 := by
  simp [Part.takeStep]

/-- A READY cell whose kind code names no kind stops the station (R23 step 1, R31). -/
theorem chain_badKind {p : Part} {i : StationId} (hf : (p.station i).walker.run.state ≠ .opened)
    (hc : p.cellState i (p.station i).walker.position = cellReady)
    (hk : Kind.ofCode (p.mem.read (Config.cell i (p.station i).walker.position + 1)) = none) :
    ((p.chain i).station i).walker.state = .stopped := by
  have kind : Kind.ofCode (p.takeStep i).2.kind = none := hk
  have fails : (p.takeStep i).1.startStep i (p.takeStep i).2 = ((p.takeStep i).1, some (.error .badKind)) := by
    simp only [Part.startStep, kind]
  have ends := examine_ends 32 (fun full => hf full.1) hc (r := .error .badKind) (t := (p.takeStep i).2)
    (by rw [fails]) (by rw [fails]; exact takeStep_inFlight p i)
  have stops : (Result.error .badKind).stops (p.takeStep i).2.flags = true := rfl
  rw [Part.chain, ends, if_pos stops]
  simp [Part.enterStopped]

/-- The CLEAR of the witness takes the cell that the overlong notice made READY, and stops on its kind. -/
theorem clearWitness_stops : ((clearWitness.clear 0).station 0).walker.state = .stopped := by
  have showing : (clearWitness.becomeIdle 0).panel.showing = some (noticeEntry 0 .noPart) := rfl
  obtain ⟨ready, kind⟩ := read_overlongNotice (p := clearWitness.becomeIdle 0) rfl rfl (by decide)
  rw [clear_faulted rfl (by decide) rfl (by decide), removeNotice_showing showing (by decide)]
  have column : (clearWitness.becomeIdle 0).endShowing.station 0 = (clearWitness.becomeIdle 0).station 0 :=
    endShowing_station _ 0
  refine chain_badKind ?_ ?_ ?_
  all_goals rw [column]
  · decide
  · exact ready
  · exact (congrArg Kind.ofCode kind).trans rfl

/-- Refutes O31: the CLEAR removes the station's notice, so that the overlong notice shows and its text makes the cell
at the position READY, where it was not; the examination then takes it. -/
theorem not_clearResumesStation : ¬Obligations.ClearResumesStation := by
  rintro ⟨-, -, clears⟩
  obtain ⟨walker, -⟩ := (clears clearWitness 0).2.2 (.inr ⟨rfl, rfl, by decide⟩) (by decide)
  have stopped := clearWitness_stops
  rw [walker] at stopped
  exact absurd stopped (by decide)

end Sys2Proof.Machine
end

