-- ==== Sys2Proof/Proofs/FixtureFrame.lean ====
section
/-! What the operations of the part leave of the fixture controllers. Most of them leave every fixture as it was; the
others go through the states of section 3.2 of 03, keep the debounced levels, and give the drive command of R53's table
wherever it was the table's before. -/

namespace Sys2Proof.Machine

/-! ### The fixtures of the part -/

/-- The fixture controllers of the four stations. -/
def Part.fixtures (p : Part) (i : StationId) : Fixture := (p.station i).fx

section Updates
variable (p : Part) (i : StationId)

theorem fixtures_of_stations {p q : Part} (h : q.stations = p.stations) : q.fixtures = p.fixtures := by
  funext j
  rw [Part.fixtures, Part.fixtures, Part.station, Part.station, h]

theorem PanelOnly.fixtures {p q : Part} (h : PanelOnly p q) : q.fixtures = p.fixtures :=
  fixtures_of_stations h.stations

/-- A change of a station column that leaves its fixture. -/
theorem modify_fixtures {f : Station → Station} (h : (f (p.station i)).fx = (p.station i).fx) :
    (p.modify i f).fixtures = p.fixtures := by
  funext j
  by_cases hj : i = j
  · subst hj
    simpa [Part.fixtures] using h
  · simp [Part.fixtures, hj]

theorem setFx_fixtures (f : Fixture → Fixture) :
    (p.setFx i f).fixtures = fun j => if j = i then f (p.fixtures j) else p.fixtures j := by
  funext j
  by_cases hj : j = i
  · subst hj
    simp [Part.fixtures]
  · simp [Part.fixtures, hj, Ne.symm hj]

@[simp] theorem setWalker_fixtures (f : Walker → Walker) : (p.setWalker i f).fixtures = p.fixtures :=
  modify_fixtures p i rfl
@[simp] theorem setPs_fixtures (f : Supply → Supply) : (p.setPs i f).fixtures = p.fixtures :=
  modify_fixtures p i rfl
@[simp] theorem setSt_fixtures (f : Stimulus → Stimulus) : (p.setSt i f).fixtures = p.fixtures :=
  modify_fixtures p i rfl
@[simp] theorem setLc_fixtures (f : Line → Line) : (p.setLc i f).fixtures = p.fixtures :=
  modify_fixtures p i rfl
@[simp] theorem setAq_fixtures (f : Monitors → Monitors) : (p.setAq i f).fixtures = p.fixtures :=
  modify_fixtures p i rfl
@[simp] theorem setWork_fixtures (k : Work) : (p.setWork i k).fixtures = p.fixtures := modify_fixtures p i rfl
@[simp] theorem setRun_fixtures (f : RunRecord → RunRecord) : (p.setRun i f).fixtures = p.fixtures :=
  modify_fixtures p i rfl
@[simp] theorem setStationState_fixtures (st : StationState) : (p.setStationState i st).fixtures = p.fixtures :=
  modify_fixtures p i rfl
@[simp] theorem setFrame_fixtures (f : Frame) : (p.setFrame i f).fixtures = p.fixtures := modify_fixtures p i rfl

theorem memory_fixtures (m : Memory) : ({ p with mem := m } : Part).fixtures = p.fixtures := rfl
@[simp] theorem poke8_fixtures (x : Nat) (v : Byte) : (p.poke8 x v).fixtures = p.fixtures := rfl
@[simp] theorem poke16_fixtures (x v : Nat) : (p.poke16 x v).fixtures = p.fixtures := rfl
@[simp] theorem poke32_fixtures (x v : Nat) : (p.poke32 x v).fixtures = p.fixtures := rfl
@[simp] theorem setCellState_fixtures (c : CellId) (code : Byte) :
    (p.setCellState i c code).fixtures = p.fixtures := rfl
@[simp] theorem mark_fixtures (w : BitVec 64) : (p.mark i w).fixtures = p.fixtures := rfl
@[simp] theorem setConv_fixtures (f : Converter → Converter) : (p.setConv f).fixtures = p.fixtures := rfl
@[simp] theorem setPanel_fixtures (f : Panel → Panel) : (p.setPanel f).fixtures = p.fixtures := rfl
@[simp] theorem raise_fixtures (c : Cause) : (p.raise c).fixtures = p.fixtures := rfl

/-- An operation that leaves the fixtures, carried out once for each thing of a list. -/
theorem foldl_fixtures {α : Type} {f : Part → α → Part} (h : ∀ q a, (f q a).fixtures = q.fixtures) (l : List α) :
    (l.foldl f p).fixtures = p.fixtures := by
  induction l generalizing p with
  | nil => rfl
  | cons a l ih => rw [List.foldl_cons, ih, h]

end Updates

/-! ### Operations that leave the fixtures -/

section Panel
variable (p : Part)

@[simp] theorem showText_fixtures (cs : List Byte) : (p.showText cs).fixtures = p.fixtures :=
  (showText_only p cs).fixtures
@[simp] theorem publishPanel_fixtures : p.publishPanel.fixtures = p.fixtures := rfl
@[simp] theorem publishFigures_fixtures : p.publishFigures.fixtures = p.fixtures := rfl
@[simp] theorem beep_fixtures (n : Nat) : (p.beep n).fixtures = p.fixtures := rfl
@[simp] theorem showIdle_fixtures : p.showIdle.fixtures = p.fixtures := (showIdle_only p).fixtures
@[simp] theorem endShowing_fixtures : p.endShowing.fixtures = p.fixtures := (endShowing_only p).fixtures
@[simp] theorem placeEntry_fixtures (e : PanelEntry) : (p.placeEntry e).fixtures = p.fixtures :=
  (placeEntry_only p e).fixtures
@[simp] theorem withdrawPrompt_fixtures (i : StationId) (b : Bool) : (p.withdrawPrompt i b).fixtures = p.fixtures :=
  (withdrawPrompt_only p i b).fixtures
@[simp] theorem removeNotice_fixtures (i : StationId) : (p.removeNotice i).fixtures = p.fixtures :=
  (removeNotice_only p i).fixtures
@[simp] theorem changePrompt_fixtures (i : StationId) (f : PanelEntry → PanelEntry) :
    (p.changePrompt i f).fixtures = p.fixtures := (changePrompt_only p i f).fixtures

end Panel

section Line
variable (p : Part) (i : StationId)

@[simp] theorem overrun_fixtures (e : Fin 16) : (p.overrun i e).fixtures = p.fixtures := by
  simp [Part.overrun, Part.writeReceptionOverrun]

@[simp] theorem joinDue_fixtures (e : Fin 16) (key : Time) : (p.joinDue i e key).fixtures = p.fixtures := by
  unfold Part.joinDue
  split <;> simp

@[simp] theorem fallDue_fixtures (e : Fin 16) : (p.fallDue i e).fixtures = p.fixtures := by
  unfold Part.fallDue
  dsimp only
  split <;> simp

@[simp] theorem fallDueAll_fixtures : (p.fallDueAll i).fixtures = p.fixtures := by
  refine foldl_fixtures p (fun q e => ?_) _
  split <;> simp

@[simp] theorem startFrame_fixtures : (p.startFrame i).fixtures = p.fixtures := by
  unfold Part.startFrame
  dsimp only
  split <;> simp

@[simp] theorem loadSchedule_fixtures (t : Vector Entry 16) : (p.loadSchedule i t).fixtures = p.fixtures := by
  unfold Part.loadSchedule
  rw [setLc_fixtures, fallDueAll_fixtures, memory_fixtures, setLc_fixtures]

@[simp] theorem recordFrame_fixtures (f : Frame) (result : FrameResult) :
    (p.recordFrame i f result).fixtures = p.fixtures := by
  have data : ∀ (q : Part) e, (q.writeReceptionData i e).fixtures = q.fixtures := fun _ _ => rfl
  have time : ∀ (q : Part) e, (q.writeReceptionTime i e).fixtures = q.fixtures := fun _ _ => rfl
  have counts : ∀ (q : Part) e, (q.writeReceptionCounts i e).fixtures = q.fixtures := fun _ _ => rfl
  have state : ∀ (q : Part) e, (q.writeReceptionState i e).fixtures = q.fixtures := fun _ _ => rfl
  have sequence : ∀ (q : Part) e, (q.writeReceptionSequence i e).fixtures = q.fixtures := fun _ _ => rfl
  unfold Part.recordFrame
  split <;> split <;> simp [data, time, counts, state, sequence]

@[simp] theorem endFrameRecord_fixtures (f : Frame) (result : FrameResult) :
    (p.endFrameRecord i f result).fixtures = p.fixtures := by
  simp [Part.endFrameRecord]

@[simp] theorem afterFrame_fixtures : (p.afterFrame i).fixtures = p.fixtures := by
  unfold Part.afterFrame
  dsimp only
  split
  · simp
  · split <;> simp

end Line

section Units
variable (p : Part) (i : StationId)

@[simp] theorem supplyLeave_fixtures (dest : SupplyState) : (p.supplyLeave i dest).fixtures = p.fixtures :=
  modify_fixtures p i rfl

@[simp] theorem supplyOff_fixtures : (p.supplyOff i).fixtures = p.fixtures := by
  unfold Part.supplyOff
  split <;> simp

@[simp] theorem supplyCut_fixtures : (p.supplyCut i).fixtures = p.fixtures := by
  unfold Part.supplyCut
  split <;> simp

@[simp] theorem writeReference_fixtures (high low : Nat) (suspect : Bool) :
    (p.writeReference high low suspect).fixtures = p.fixtures := rfl

@[simp] theorem endCheck_fixtures (r : RefCheck) : (p.endCheck r).fixtures = p.fixtures := by
  unfold Part.endCheck
  dsimp only
  split <;> rfl

@[simp] theorem writeInput_fixtures (k : Fin 8) : (p.writeInput i k).fixtures = p.fixtures := rfl

@[simp] theorem writeInputs_fixtures : (p.writeInputs i).fixtures = p.fixtures := by
  unfold Part.writeInputs
  rw [setAq_fixtures]
  refine foldl_fixtures p (fun q k => ?_) _
  split <;> simp

@[simp] theorem updateLamp_fixtures (column : Fin 8) (reading : Byte) :
    (p.updateLamp i column reading).fixtures = p.fixtures := by
  have written : ∀ (q : Part) k c, (q.writeLamp i k c).fixtures = q.fixtures := fun _ _ _ => rfl
  unfold Part.updateLamp
  dsimp only
  split
  · split
    · rfl
    · split <;> simp [written]
  · rfl

@[simp] theorem clearContacts_fixtures : (p.clearContacts i).fixtures = p.fixtures := memory_fixtures p _
@[simp] theorem writeContact_fixtures (pin : Nat) (v : Int) : (p.writeContact i pin v).fixtures = p.fixtures := rfl

@[simp] theorem dropAcquisition_fixtures : (p.dropAcquisition i).fixtures = p.fixtures := by
  simp [Part.dropAcquisition]

end Units

section Attempts
variable (p : Part) (i : StationId)

@[simp] theorem traceAppend_fixtures (v : Int) : (p.traceAppend i v).fixtures = p.fixtures := by
  unfold Part.traceAppend
  dsimp only
  split <;> simp

@[simp] theorem settleLoop_fixtures (w : MeasureWork) (traced : Bool) (a : Attempt) :
    (p.settleLoop i w traced a).1.fixtures = p.fixtures := by
  cases traced <;> simp [Part.settleLoop]

@[simp] theorem beginGathering_fixtures (w : MeasureWork) : (p.beginGathering i w).fixtures = p.fixtures := by
  unfold Part.beginGathering
  split <;> simp

@[simp] theorem startAttempt_fixtures (w : MeasureWork) (traced : Bool) :
    (p.startAttempt i w traced).1.fixtures = p.fixtures := by
  unfold Part.startAttempt
  dsimp only
  split <;> simp

@[simp] theorem arrive_fixtures (w : MeasureWork) (traced : Bool) (a : Attempt) :
    (p.arrive i w traced a).1.fixtures = p.fixtures := by
  have settled := settleLoop_fixtures p i w traced a
  unfold Part.arrive
  split <;> rename_i e <;> rw [e] at settled
  · exact settled
  · split
    · split
      · rw [startAttempt_fixtures, settled]
      · exact settled
    · exact settled

end Attempts

section Walker
variable (p : Part) (i : StationId)

@[simp] theorem writeResult_fixtures (t : Step) (r : Result) : (p.writeResult i t r).fixtures = p.fixtures := rfl
@[simp] theorem writeOpening_fixtures (c : CellId) (run seq : BitVec 16) :
    (p.writeOpening i c run seq).fixtures = p.fixtures := rfl
@[simp] theorem abandonCell_fixtures (t : Step) (r : Result) : (p.abandonCell i t r).fixtures = p.fixtures := rfl

@[simp] theorem enterStopped_fixtures (r : Reason) : (p.enterStopped i r).fixtures = p.fixtures := by
  simp [Part.enterStopped]

@[simp] theorem takeStep_fixtures : (p.takeStep i).1.fixtures = p.fixtures := by
  simp [Part.takeStep]

@[simp] theorem beginWait_fixtures (t : Step) : (p.beginWait i t).fixtures = p.fixtures := by
  simp [Part.beginWait]

@[simp] theorem endWait_fixtures (t : Step) : (p.endWait i t).fixtures = p.fixtures := by
  simp [Part.endWait]

@[simp] theorem closeRun_fixtures : (p.closeRun i).fixtures = p.fixtures := by
  unfold Part.closeRun
  split <;> simp

@[simp] theorem startBegin_fixtures (t : Step) : (p.startBegin i t).1.fixtures = p.fixtures := by
  unfold Part.startBegin
  dsimp only
  split
  · rfl
  · repeat' split
    all_goals simp

@[simp] theorem startWait_fixtures (t : Step) : (p.startWait i t).1.fixtures = p.fixtures := by
  unfold Part.startWait
  split <;> simp

@[simp] theorem startPower_fixtures (t : Step) : (p.startPower i t).1.fixtures = p.fixtures := by
  unfold Part.startPower
  dsimp only
  split
  · rfl
  · simp
  · repeat' split
    all_goals simp

@[simp] theorem workSet_fixtures (t : Step) (atOnce : Bool) (w : SetWork) :
    (p.workSet i t atOnce w).1.fixtures = p.fixtures := by
  unfold Part.workSet
  split <;> simp

@[simp] theorem startSet_fixtures (t : Step) : (p.startSet i t).1.fixtures = p.fixtures := by
  unfold Part.startSet
  dsimp only
  split
  · rfl
  · split
    · rfl
    · split <;> simp

@[simp] theorem startSend_fixtures (t : Step) : (p.startSend i t).1.fixtures = p.fixtures := by
  have start : (p.sendStart i).1.fixtures = p.fixtures := by
    unfold Part.sendStart
    dsimp only
    repeat' split
    all_goals simp
  have stop : (p.sendStop i).1.fixtures = p.fixtures := by
    unfold Part.sendStop
    dsimp only
    repeat' split
    all_goals simp
  have once : ∀ e, (p.sendOnce i e).1.fixtures = p.fixtures := fun e => by
    unfold Part.sendOnce
    dsimp only
    repeat' split
    all_goals simp
  unfold Part.startSend
  split
  · rfl
  · split
    · split
      · exact start
      · exact stop
      · exact once _
    · rfl

@[simp] theorem admitMeasure_fixtures (t : Step) (q : MeasureParams) :
    (p.admitMeasure i t q).1.fixtures = p.fixtures := by
  unfold Part.admitMeasure
  split
  · dsimp only
    repeat' split
    all_goals simp
  all_goals simp

@[simp] theorem startMeasure_fixtures (t : Step) : (p.startMeasure i t).1.fixtures = p.fixtures := by
  unfold Part.startMeasure
  split <;> simp

@[simp] theorem startListen_fixtures (t : Step) : (p.startListen i t).1.fixtures = p.fixtures := by
  unfold Part.startListen
  dsimp only
  repeat' split
  all_goals simp

@[simp] theorem startPrompt_fixtures (t : Step) : (p.startPrompt i t).1.fixtures = p.fixtures := by
  unfold Part.startPrompt
  split <;> simp

@[simp] theorem notify_fixtures (t : Step) : (p.notify i t).fixtures = p.fixtures := by
  unfold Part.notify
  split <;> simp

@[simp] theorem completeMain_fixtures (t : Step) (r : Result) : (p.completeMain i t r).fixtures = p.fixtures := by
  simp [Part.completeMain]

@[simp] theorem becomeIdle_fixtures : (p.becomeIdle i).fixtures = p.fixtures := by
  simp [Part.becomeIdle]

@[simp] theorem rerunEnd_fixtures (t : Step) (r : Result) : (p.rerunEnd i t r).fixtures = p.fixtures := by
  simp [Part.rerunEnd]

end Walker

end Sys2Proof.Machine
end

