-- ==== Sys2Proof/Proofs/FixtureMoves.lean ====
section
/-! How a fixture controller moves (R53, section 3.2 of 03): every operation of a station keeps the debounced levels, and
leaves the drive command as the table gives it. -/

namespace Sys2Proof.Machine

/-! ### Moves of a fixture -/

/-- A fixture after operations that do not touch its debouncers: its levels stand, and its drive command is the one of
the table if it was. -/
structure Fixture.Moves (f g : Fixture) : Prop where
  levels : g.levels = f.levels
  lawful : f.driveLawful = true → g.driveLawful = true

namespace Fixture.Moves

theorem refl (f : Fixture) : f.Moves f := ⟨rfl, id⟩

theorem trans {f g h : Fixture} (m : f.Moves g) (m' : g.Moves h) : f.Moves h :=
  ⟨m'.levels.trans m.levels, m'.lawful ∘ m.lawful⟩

end Fixture.Moves

section States
variable (f : Fixture)

theorem Fixture.toOpen_moves : f.Moves f.toOpen := ⟨rfl, fun _ => rfl⟩
theorem Fixture.toClamped_moves : f.Moves f.toClamped := ⟨rfl, fun _ => rfl⟩
theorem Fixture.toJammed_moves : f.Moves f.toJammed := ⟨rfl, fun _ => rfl⟩
theorem Fixture.toOpening_moves (now : Time) : f.Moves (f.toOpening now) := ⟨rfl, fun _ => rfl⟩
theorem Fixture.toClosing_moves (now : Time) (twoHand : Bool) : f.Moves (f.toClosing now twoHand) := ⟨rfl, fun _ => rfl⟩
theorem Fixture.toArming_moves (now : Time) (timeout : Nat) : f.Moves (f.toArming now timeout) := ⟨rfl, fun _ => rfl⟩
theorem Fixture.capture_moves (travel : Nat) : f.Moves (f.capture travel) := ⟨rfl, id⟩
theorem Fixture.contactOff_moves : f.Moves f.contactOff := ⟨rfl, id⟩
theorem Fixture.route_moves (pin : Nat) : f.Moves (f.route pin) := ⟨rfl, id⟩
theorem Fixture.freeze_moves : f.Moves f.freeze := ⟨rfl, id⟩

theorem Fixture.enable_moves (now : Time) : f.Moves (f.enable now) := by
  unfold Fixture.enable
  dsimp only
  split
  · exact ⟨rfl, fun _ => rfl⟩
  · exact ⟨rfl, fun _ => rfl⟩

theorem Fixture.halt_moves (now : Time) : f.Moves (f.halt now) := by
  unfold Fixture.halt
  split
  · exact f.toOpening_moves now
  · exact f.toOpen_moves
  · exact .refl f

theorem Fixture.dropClamp_moves (cause : AbandonCause) (now : Time) : f.Moves (f.dropClamp cause now) := by
  unfold Fixture.dropClamp
  split
  · exact f.toOpen_moves
  · split
    · exact .refl f
    · exact f.toOpening_moves now
  · exact .refl f

/-- The two-hand pair is judged beside state and drive. -/
theorem Fixture.judgeHands_moves (held : Bool) (now : Time) (window : Nat) : f.Moves (f.judgeHands held now window).1 := by
  unfold Fixture.judgeHands
  dsimp only
  repeat' split
  all_goals exact ⟨rfl, id⟩

end States

/-! ### Moves of the part's fixtures -/

/-- Every fixture of the part moves. -/
def Part.FixturesMove (p q : Part) : Prop := ∀ j, (p.fixtures j).Moves (q.fixtures j)

namespace Part.FixturesMove

variable {p q r : Part}

theorem refl (p : Part) : p.FixturesMove p := fun _ => .refl _

theorem trans (h : p.FixturesMove q) (h' : q.FixturesMove r) : p.FixturesMove r := fun j => (h j).trans (h' j)

/-- An operation that leaves the fixtures, after others. -/
theorem leaves (h : p.FixturesMove q) (e : r.fixtures = q.fixtures) : p.FixturesMove r := fun j => by
  rw [e]
  exact h j

theorem of_fixtures (e : q.fixtures = p.fixtures) : p.FixturesMove q := (refl p).leaves e

theorem setFx (h : p.FixturesMove q) (i : StationId) {f : Fixture → Fixture} (hf : ∀ g : Fixture, g.Moves (f g)) :
    p.FixturesMove (q.setFx i f) := h.trans fun j => by
  rw [setFx_fixtures]
  dsimp only
  split
  · exact hf _
  · exact .refl _

theorem driveLaw (h : p.FixturesMove q) (law : p.DriveLaw) : q.DriveLaw := fun j => (h j).lawful (law j)

end Part.FixturesMove

/-! ### The start of a step -/

section Starts
variable (p : Part) (i : StationId)

theorem beginRelease_moves : p.FixturesMove (p.beginRelease i).1 := by
  unfold Part.beginRelease
  split
  all_goals dsimp only
  · exact .refl p
  · exact (Part.FixturesMove.refl p).setFx i fun g => g.toOpening_moves _
  · exact .refl p

theorem startEnd_moves (t : Step) : p.FixturesMove (p.startEnd i t).1 := by
  have ended : ∀ f c, ((p.setWalker i f).raise c).fixtures = p.fixtures := fun f c => by simp
  have released : ∀ f c, p.FixturesMove (((p.setWalker i f).raise c).beginRelease i).1 := fun f c =>
    (Part.FixturesMove.of_fixtures (ended f c)).trans (beginRelease_moves _ i)
  unfold Part.startEnd
  dsimp only
  split
  · split
    · split
      · split <;> rename_i e <;> have moved := congrArg (fun o => p.FixturesMove o.1) e
        · exact moved.mp (released _ _)
        · exact (moved.mp (released _ _)).leaves (setWork_fixtures _ i _)
      · exact .of_fixtures (ended _ _)
    · exact .of_fixtures (ended _ _)
  · exact .refl p

theorem startRelease_moves (t : Step) : p.FixturesMove (p.startRelease i t).1 := by
  have released := beginRelease_moves p i
  unfold Part.startRelease
  split
  · split <;> rename_i e <;> rw [e] at released
    · exact released
    · exact released.leaves (setWork_fixtures _ i _)
  · exact .refl p

theorem startClamp_moves (t : Step) : p.FixturesMove (p.startClamp i t).1 := by
  have begun : ∀ k, p.FixturesMove (p.setWork i k) := fun k => .of_fixtures (setWork_fixtures p i k)
  unfold Part.startClamp
  dsimp only
  split
  · exact .refl p
  · repeat' split
    all_goals dsimp only
    · exact .refl p
    · exact .refl p
    · exact .refl p
    · exact .refl p
    · exact (begun _).setFx i fun g => (g.capture_moves _).trans (Fixture.toClosing_moves _ _ _)
    · exact ((begun _).setFx i fun g => (g.capture_moves _).trans (Fixture.toArming_moves _ _ _)).leaves
        (beginWait_fixtures _ i t)

theorem startPin_moves (c : Calibration) (pin : Nat) : p.FixturesMove (p.startPin i c pin) :=
  ((Part.FixturesMove.refl p).setFx i fun g => g.route_moves pin).leaves (setConv_fixtures _ _)

theorem startContact_moves : p.FixturesMove (p.startContact i).1 := by
  unfold Part.startContact
  dsimp only
  repeat' split
  all_goals dsimp only
  · exact .refl p
  · exact .refl p
  · exact .refl p
  · exact .refl p
  · exact (Part.FixturesMove.of_fixtures (by simp)).trans (startPin_moves _ i _ _)

theorem startStep_moves (t : Step) : p.FixturesMove (p.startStep i t).1 := by
  unfold Part.startStep
  split
  · exact .refl p
  · exact .of_fixtures (startBegin_fixtures p i t)
  · exact startEnd_moves p i t
  · exact .of_fixtures (startWait_fixtures p i t)
  · exact startClamp_moves p i t
  · exact startRelease_moves p i t
  · exact startContact_moves p i
  · exact .of_fixtures (startPower_fixtures p i t)
  · exact .of_fixtures (startSet_fixtures p i t)
  · exact .of_fixtures (startSend_fixtures p i t)
  · exact .of_fixtures (startMeasure_fixtures p i t)
  · exact .of_fixtures (startListen_fixtures p i t)
  · exact .of_fixtures (startPrompt_fixtures p i t)

end Starts

/-! ### The ends of a step -/

section Ends
variable (p : Part) (i : StationId)

theorem examine_moves (n : Nat) : p.FixturesMove (Part.examine n p i) := by
  induction n generalizing p with
  | zero => exact .of_fixtures (becomeIdle_fixtures p i)
  | succ n ih =>
    have taken := (Part.FixturesMove.of_fixtures (takeStep_fixtures p i)).trans (startStep_moves _ i (p.takeStep i).2)
    unfold Part.examine
    dsimp only
    split
    · exact .of_fixtures (enterStopped_fixtures p i _)
    · split
      · split <;> rename_i e <;> rw [e] at taken
        · exact taken
        · split
          · exact taken.leaves (by simp)
          · exact (taken.leaves (completeMain_fixtures _ i _ _)).trans (ih _)
      · exact .of_fixtures (becomeIdle_fixtures p i)

theorem chain_moves : p.FixturesMove (p.chain i) := examine_moves p i 33

theorem completeStep_moves (r : Result) : p.FixturesMove (p.completeStep i r) := by
  unfold Part.completeStep
  split
  · exact .refl p
  · dsimp only
    split
    · exact .of_fixtures (by simp)
    · exact (Part.FixturesMove.of_fixtures (completeMain_fixtures p i _ r)).trans (chain_moves _ i)

theorem finish_moves (r : Result) : p.FixturesMove (p.finish i r) := by
  unfold Part.finish
  split
  · exact .of_fixtures (rerunEnd_fixtures p i _ r)
  · exact completeStep_moves p i r

/-- The outcome of an operation that leaves the fixtures. -/
theorem conclude_moves {p : Part} {o : Part × Option Result} (h : o.1.fixtures = p.fixtures) :
    p.FixturesMove (Part.conclude i o) := by
  obtain ⟨q, _ | r⟩ := o
  · exact .of_fixtures h
  · exact (Part.FixturesMove.of_fixtures h).trans (finish_moves q i r)

/-- The outcome of the start of a step. -/
theorem conclude_startStep_moves (t : Step) : p.FixturesMove (Part.conclude i (p.startStep i t)) := by
  have started := startStep_moves p i t
  generalize p.startStep i t = o at started
  obtain ⟨q, _ | r⟩ := o
  · exact started
  · exact started.trans (finish_moves q i r)

end Ends

/-! ### Abandonment -/

/-- What abandonments of one cause make of a fixture: a CLAMP dropped, or a CONTACT (R32, R60, R72). -/
inductive Fixture.Dropped (cause : AbandonCause) (now : Time) (f : Fixture) : Fixture → Prop where
  | stands : Dropped cause now f f
  | clamp {g : Fixture} : Dropped cause now f g → Dropped cause now f (g.dropClamp cause now)
  | contact {g : Fixture} : Dropped cause now f g → Dropped cause now f g.contactOff

theorem Fixture.Dropped.moves {cause : AbandonCause} {now : Time} {f g : Fixture} (h : f.Dropped cause now g) :
    f.Moves g := by
  induction h with
  | stands => exact .refl f
  | clamp _ ih => exact ih.trans (Fixture.dropClamp_moves _ _ _)
  | contact _ ih => exact ih.trans (Fixture.contactOff_moves _)

section Abandonment
variable {p q : Part} {i : StationId} {cause : AbandonCause}

/-- Every fixture of the part is as abandonments of one cause leave it, at one rack time. -/
structure Part.FixturesDrop (cause : AbandonCause) (p q : Part) : Prop where
  now : q.rackTime = p.rackTime
  drops : ∀ j, (p.fixtures j).Dropped cause p.rackTime (q.fixtures j)

theorem Part.FixturesDrop.refl (p : Part) : p.FixturesDrop cause p := ⟨rfl, fun _ => .stands⟩

theorem Part.FixturesDrop.leaves {r : Part} (h : p.FixturesDrop cause q) (now : r.rackTime = q.rackTime)
    (e : r.fixtures = q.fixtures) : p.FixturesDrop cause r :=
  ⟨now.trans h.now, fun j => by rw [e]; exact h.drops j⟩

theorem dropWork_drops (h : p.FixturesDrop cause q) (k : Work) : p.FixturesDrop cause (q.dropWork i k cause).1 := by
  have changed : ∀ f : Fixture → Fixture, (∀ g, (p.fixtures i).Dropped cause p.rackTime g →
      (p.fixtures i).Dropped cause p.rackTime (f g)) → p.FixturesDrop cause (q.setFx i f) := fun f hf =>
    ⟨h.now, fun j => by
      rw [setFx_fixtures]
      dsimp only
      split
      · subst j
        exact hf _ (h.drops i)
      · exact h.drops j⟩
  unfold Part.dropWork
  cases k with dsimp only
  | clamp => exact changed _ fun g hg => by rw [h.now]; exact hg.clamp
  | contact => exact (changed _ fun g hg => hg.contact).leaves rfl rfl
  | set => exact h.leaves rfl (setSt_fixtures q i _)
  | measure => exact h.leaves rfl (dropAcquisition_fixtures q i)
  | prompt => exact h.leaves (withdrawPrompt_only q i _).rackTime (withdrawPrompt_fixtures q i _)
  | _ => exact h

theorem abandonRerun_drops (p : Part) (i : StationId) (cause : AbandonCause) :
    p.FixturesDrop cause (p.abandonRerun i cause) := by
  unfold Part.abandonRerun
  split
  · exact .refl p
  · exact (dropWork_drops (.refl p) _).leaves rfl (by simp)

theorem abandonStep_drops (p : Part) (i : StationId) (cause : AbandonCause) :
    p.FixturesDrop cause (p.abandonStep i cause) := by
  have rerun := abandonRerun_drops p i cause
  unfold Part.abandonStep
  dsimp only
  split
  · exact rerun
  · exact (dropWork_drops rerun _).leaves rfl (by simp)

theorem Part.FixturesDrop.moves (h : p.FixturesDrop cause q) : p.FixturesMove q := fun j => (h.drops j).moves

theorem faultReport_moves (p : Part) (i : StationId) (r : FaultReason) : p.FixturesMove (p.faultReport i r) := by
  have dropped := (abandonStep_drops p i (.fault r)).moves
  unfold Part.faultReport
  split
  · exact .refl p
  · exact .of_fixtures (raise_fixtures p _)
  all_goals exact dropped.leaves (by simp)

end Abandonment

/-! ### Halts, CLEAR, sweeps and re-runs -/

section Walker
variable (p : Part) (i : StationId)

theorem halt_moves : p.FixturesMove (p.halt i) := by
  have dropped := (abandonStep_drops p i .halted).moves
  have noticed : ∀ q : Part, q.FixturesMove (q.haltNotice i) := fun q j => by
    by_cases hj : i = j
    · subst hj
      simpa [Part.haltNotice, Part.fixtures] using (q.station i).fx.halt_moves q.rackTime
    · simpa [Part.haltNotice, Part.fixtures, hj] using Fixture.Moves.refl _
  unfold Part.halt
  split
  · exact .refl p
  · exact .refl p
  · exact .refl p
  all_goals exact (dropped.leaves (setWalker_fixtures _ i _)).trans (noticed _)

theorem clear_moves : p.FixturesMove (p.clear i) := by
  have cleared : ∀ faulted, p.FixturesMove (p.clearStation i faulted) := fun faulted => by
    have back : (((p.supplyOff i).closeRun i).becomeIdle i).fixtures = p.fixtures := by simp
    cases faulted with
    | false => exact (Part.FixturesMove.of_fixtures back).trans (chain_moves _ i)
    | true => exact ((Part.FixturesMove.of_fixtures back).leaves (removeNotice_fixtures _ i)).trans (chain_moves _ i)
  unfold Part.clear
  split
  · exact .refl p
  · exact .refl p
  · exact .refl p
  · exact .refl p
  · exact cleared _
  · split
    · exact cleared _
    · exact .refl p

/-- An event carried to the stations in their order. -/
theorem eachStation_moves {f : StationId → Part → Part} (hf : ∀ j (q : Part), q.FixturesMove (f j q)) :
    p.FixturesMove (p.eachStation f) := by
  have fold : ∀ (l : List StationId) (q : Part), q.FixturesMove (l.foldl (fun q j => f j q) q) := by
    intro l
    induction l with
    | nil => exact fun q => .refl q
    | cons j l ih => exact fun q => (hf j q).trans (ih _)
  exact fold stationIds p

theorem sweep_moves : p.FixturesMove p.sweep := by
  refine eachStation_moves p fun j q => ?_
  split
  · exact chain_moves q j
  · exact .refl q

theorem pressRepeat_moves (e : PanelEntry) : p.FixturesMove (p.pressRepeat e) := by
  unfold Part.pressRepeat
  split
  · unfold Part.rerunTake
    exact (Part.FixturesMove.of_fixtures (by simp)).trans (conclude_startStep_moves _ _ _)
  · exact .of_fixtures (beep_fixtures p _)

end Walker

end Sys2Proof.Machine
end

