-- ==== Sys2Proof/Proofs/DriveCommand.lean ====
section
/-! The drive command over every step (R53, R54): the events of the part move its fixtures, a reset drops them, and what
a disable leaves of them. -/

namespace Sys2Proof.Machine

/-! ### Events of the acquisition unit -/

section Acquisition
variable (p : Part) (i : StationId)

theorem datum_moves (g : Gathering) (refFlag : Bool) (judge : MeasureParams → Attempt) :
    p.FixturesMove (p.datum i g refFlag judge) := by
  unfold Part.datum
  split
  · split
    · exact conclude_moves i (arrive_fixtures p i _ _ _)
    · exact .refl p
  · exact .refl p

theorem requestReturn_moves (q : Request) : p.FixturesMove (p.requestReturn i q) := by
  unfold Part.requestReturn
  split
  · unfold Part.contactReturn
    split
    · dsimp only
      have written : ∀ x v k, p.FixturesMove ((p.writeContact i x v).setWork i k) := fun x v k =>
        .of_fixtures (by simp)
      split
      · exact (written _ _ _).trans (startPin_moves _ i _ _)
      · exact ((written _ _ _).setFx i Fixture.contactOff_moves).trans (finish_moves _ i _)
    · exact .refl p
  · exact datum_moves p i _ _ _

theorem sampleEnds_moves (microvolts : Int) : p.FixturesMove (p.sampleEnds microvolts) := by
  have taken : ∀ x code, p.FixturesMove (p.takeCode x code) := fun x code => by
    unfold Part.takeCode
    split
    · split
      · exact .refl p
      · dsimp only
        split
        · exact .of_fixtures (setConv_fixtures p _)
        · exact .of_fixtures (endCheck_fixtures p _)
    · split
      · exact .refl p
      · dsimp only
        split
        · exact .of_fixtures (setConv_fixtures p _)
        · exact (Part.FixturesMove.of_fixtures (setConv_fixtures p _)).trans (requestReturn_moves _ _ _)
  unfold Part.sampleEnds
  split
  · exact .refl p
  · split
    · exact (taken _ _).leaves (setConv_fixtures _ _)
    · exact .of_fixtures (setConv_fixtures p _)

theorem inputEdge_moves (k : Fin 8) (tick : Tick) : p.FixturesMove (p.inputEdge i k tick) := by
  have closes : ∀ (q : Part) n closed, q.FixturesMove (q.meterCloses i n closed) := fun q n closed => by
    unfold Part.meterCloses
    split
    · exact .refl q
    · exact (Part.FixturesMove.of_fixtures (mark_fixtures q i _)).trans (datum_moves _ i _ _ _)
  unfold Part.inputEdge
  split
  · exact .refl p
  · dsimp only [meterIds, List.foldl]
    exact ((Part.FixturesMove.of_fixtures (setAq_fixtures p i _)).trans (closes _ _ _)).trans (closes _ _ _)

theorem inputReject_moves (k : Fin 8) : p.FixturesMove (p.inputReject i k) := by
  unfold Part.inputReject
  split
  · exact .refl p
  · exact .of_fixtures (setAq_fixtures p i _)

theorem windowEnds_moves : p.FixturesMove (p.windowEnds i) := by
  unfold Part.windowEnds
  split
  · split
    · exact (Part.FixturesMove.of_fixtures (setAq_fixtures p i _)).trans (datum_moves _ i _ _ _)
    · exact .refl p
  · exact .refl p

theorem meterExpires_moves (n : Fin 2) : p.FixturesMove (p.meterExpires i n) := by
  unfold Part.meterExpires
  dsimp only
  split
  · exact (Part.FixturesMove.of_fixtures (by simp)).trans (datum_moves _ i _ _ _)
  · exact .refl p

theorem identityRead_moves (identity : Byte) : p.FixturesMove (p.identityRead i identity) := by
  unfold Part.identityRead
  split
  · dsimp only
    split
    · split
      · exact conclude_moves i (by simp)
      · exact .of_fixtures (setAq_fixtures p i _)
    · exact .of_fixtures (setAq_fixtures p i _)
  · exact .refl p

theorem rowUpdate_moves (readings : Vector Byte 8) : p.FixturesMove (p.rowUpdate i readings) := by
  unfold Part.rowUpdate
  split
  · refine .of_fixtures ((setAq_fixtures _ i _).trans ?_)
    exact foldl_fixtures p (fun q c => updateLamp_fixtures q i c _) _
  · exact .refl p

end Acquisition

/-! ### Events of the fixture controllers -/

section Fixtures
variable (p : Part) (i : StationId)

theorem failClamp_moves (r : Reason) (value aux : Nat) : p.FixturesMove (p.failClamp i r value aux) := by
  unfold Part.failClamp
  split
  · exact finish_moves p i _
  · exact .refl p

theorem reverse_moves (r : Reason) : p.FixturesMove (p.reverse i r) :=
  ((Part.FixturesMove.refl p).setFx i fun g => g.toOpening_moves _).trans (failClamp_moves _ i _ _ _)

theorem closedArrival_moves : p.FixturesMove (p.closedArrival i) := by
  have entered : ∀ record, p.FixturesMove (p.enterClamped i record) := fun record => by
    have clamped := ((Part.FixturesMove.refl p).setFx i Fixture.toClamped_moves).leaves
      (poke32_fixtures (p.setFx i Fixture.toClamped) (Config.fixtureRecord record)
        (countUp 4294967295 ((p.setFx i Fixture.toClamped).cycleCount record)))
    unfold Part.enterClamped Part.countCycle
    dsimp only
    split
    · exact clamped.leaves (by simp)
    · exact clamped.leaves (setWork_fixtures _ i _)
  unfold Part.closedArrival
  dsimp only
  split
  · split
    · exact entered _
    · exact (entered _).trans (finish_moves _ i _)
  · exact (entered _).trans (faultReport_moves _ i _)

theorem openedArrival_moves : p.FixturesMove (p.openedArrival i) := by
  have opened := (Part.FixturesMove.refl p).setFx i Fixture.toOpen_moves
  unfold Part.openedArrival
  dsimp only
  split
  · exact opened
  · split
    · exact opened.trans (finish_moves _ i _)
    · exact opened.trans (finish_moves _ i _)
    · exact opened

theorem guardCut_moves : p.FixturesMove (p.guardCut i) := by
  unfold Part.guardCut
  split
  · exact (Part.FixturesMove.of_fixtures (supplyLeave_fixtures p i _)).trans (faultReport_moves _ i _)
  · exact .refl p

theorem nestLoss_moves : p.FixturesMove (p.nestLoss i) :=
  (Part.FixturesMove.of_fixtures (supplyCut_fixtures p i)).trans (faultReport_moves _ i _)

theorem armingButton_moves (held : Bool) : p.FixturesMove (p.armingButton i held) := by
  have judged : p.FixturesMove
      (p.setFx i fun _ => ((p.station i).fx.judgeHands held p.rackTime p.config.twoHandWindow).1) := fun j => by
    rw [setFx_fixtures]
    dsimp only
    split
    · subst j
      exact Fixture.judgeHands_moves _ _ _ _
    · exact .refl _
  have accepted : ∀ q : Part, q.FixturesMove (q.handsAccepted i) := fun q => by
    have closing := (Part.FixturesMove.refl q).setFx i fun g => g.toClosing_moves q.rackTime true
    unfold Part.handsAccepted
    dsimp only
    split
    · exact closing
    · split
      · exact closing.leaves (endWait_fixtures _ i _)
      · exact closing
  unfold Part.armingButton
  dsimp only
  split
  · exact judged.trans (accepted _)
  · exact judged

theorem fixtureOutcome_moves (input : FixtureInput) (level : Bool) :
    p.FixturesMove (p.fixtureOutcome i input level) := by
  have twoHand : ∀ b : Bool, p.FixturesMove (if b then p.reverse i .operatorRelease else p) := fun b => by
    cases b
    · exact .refl p
    · exact reverse_moves p i _
  unfold Part.fixtureOutcome
  dsimp only
  split
  · exact armingButton_moves p i _
  · exact armingButton_moves p i _
  · exact ((Part.FixturesMove.refl p).setFx i Fixture.toOpen_moves).trans (failClamp_moves _ i _ _ _)
  · exact closedArrival_moves p i
  · exact twoHand _
  · exact twoHand _
  · exact reverse_moves p i _
  · exact guardCut_moves p i
  · exact nestLoss_moves p i
  · exact openedArrival_moves p i
  · exact openedArrival_moves p i
  · exact .refl p

theorem handTimeout_moves : p.FixturesMove (p.handTimeout i) := by
  unfold Part.handTimeout
  dsimp only
  split
  · split
    · exact ((Part.FixturesMove.refl p).setFx i Fixture.toOpen_moves).trans (failClamp_moves _ i _ _ _)
    · exact .refl p
  · exact .refl p

theorem travelExpiry_moves : p.FixturesMove (p.travelExpiry i) := by
  have jammed : p.FixturesMove (p.jam i) := by
    have reported := ((Part.FixturesMove.refl p).setFx i Fixture.toJammed_moves).trans (faultReport_moves _ i .jammed)
    unfold Part.jam
    dsimp only
    split
    · exact reported.setFx i Fixture.toOpen_moves
    · exact reported
  unfold Part.travelExpiry
  dsimp only
  split
  · split
    · exact jammed
    · exact .refl p
  · split
    · exact jammed
    · exact .refl p
  · exact .refl p

/-- A debouncer's change of a fixture leaves its drive command the table's. -/
theorem setFx_driveLaw {p : Part} (i : StationId) {f : Fixture → Fixture}
    (hf : ∀ g, (f g).driveLawful = g.driveLawful) (law : p.DriveLaw) : (p.setFx i f).DriveLaw := fun j => by
  by_cases hj : i = j
  · subst hj
    rw [setFx_station_same, hf]
    exact law i
  · rw [setFx_station_other _ _ _ _ hj]
    exact law j

theorem debounceChange_driveLaw {p : Part} (i : StationId) (input : FixtureInput) (law : p.DriveLaw) :
    (p.debounceChange i input).DriveLaw := by
  have taken := setFx_driveLaw i (f := fun f => f.takeInput input) (fun g => takeInput_driveLawful g input) law
  unfold Part.debounceChange
  split
  · dsimp only
    split
    · exact taken
    · exact (fixtureOutcome_moves _ i _ _).driveLaw taken
  · exact law

theorem codeChange_driveLaw {p : Part} (i : StationId) (code : BitVec 6) (law : p.DriveLaw) :
    (p.codeChange i code).DriveLaw := by
  unfold Part.codeChange
  split
  · exact setFx_driveLaw i (fun g => takeCode_driveLawful g code) law
  · exact law

theorem rackTick_driveLaw {p : Part} (keys : RawMs 4) (fixtures : Vector FixtureRaw 4) (law : p.DriveLaw) :
    (p.rackTick keys fixtures).DriveLaw := by
  have counted : (p.countFixtures fixtures).DriveLaw := fun j => by
    rw [(countFixtures_eq p fixtures).2 j, countRaw_driveLawful]
    exact law j
  unfold Part.rackTick
  dsimp only
  split
  · exact counted
  · refine Part.FixturesMove.driveLaw (.of_fixtures ?_) counted
    funext j
    rw [Part.fixtures, (tick_eq _ keys).2 j, msEnds_frame]
    rfl

end Fixtures

/-! ### Events of the line controllers -/

section Lines
variable (p : Part) (i : StationId)

theorem endFrame_moves (f : Frame) (result : FrameResult) : p.FixturesMove (p.endFrame i f result) := by
  have reached : ∀ q : Part, q.FixturesMove (q.frameReaches i f result) := fun q => by
    unfold Part.frameReaches
    split
    · split
      · exact conclude_moves i (setWork_fixtures q i _)
      · exact .refl q
    · split
      · exact finish_moves q i _
      · exact .refl q
    · exact finish_moves q i _
    · exact finish_moves q i _
    · exact .refl q
  unfold Part.endFrame
  exact (Part.FixturesMove.of_fixtures (by simp)).trans (reached _)

theorem scheduleDue_moves (e : Fin 16) : p.FixturesMove (p.scheduleDue i e) := by
  unfold Part.scheduleDue
  split
  · exact .of_fixtures (by simp)
  · exact .refl p

theorem wireFree_moves : p.FixturesMove (p.wireFree i) := by
  unfold Part.wireFree
  split
  · exact .of_fixtures (by simp)
  · exact .refl p

theorem syncComplete_moves : p.FixturesMove (p.syncComplete i) := by
  unfold Part.syncComplete
  split
  · exact .of_fixtures (by simp)
  · exact .refl p

theorem bitFault_moves (noisy : Bool) : p.FixturesMove (p.bitFault i noisy) := by
  unfold Part.bitFault
  split
  · exact endFrame_moves p i _ _
  · exact .refl p

theorem sendEnds_moves (noisy : Bool) : p.FixturesMove (p.sendEnds i noisy) := by
  unfold Part.sendEnds
  split
  · split
    · exact .refl p
    · exact endFrame_moves p i _ _
  · exact .refl p

theorem openWindow_moves (noisy : Bool) : p.FixturesMove (p.openWindow i noisy) := by
  unfold Part.openWindow
  split
  · split
    · exact .of_fixtures (setFrame_fixtures p i _)
    · exact .refl p
  · exact .refl p

theorem hearCharacter_moves (c : CharSamples) : p.FixturesMove (p.hearCharacter i c) := by
  unfold Part.hearCharacter
  split
  · split
    · exact .refl p
    · split
      · exact endFrame_moves p i _ _
      · exact .of_fixtures (setFrame_fixtures p i _)
  · exact .refl p

theorem allowanceEnds_moves : p.FixturesMove (p.allowanceEnds i) := by
  unfold Part.allowanceEnds
  split
  · split
    · exact .of_fixtures (setFrame_fixtures p i _)
    · exact .refl p
  · exact .refl p

theorem closeWindow_moves (noisy : Bool) : p.FixturesMove (p.closeWindow i noisy) := by
  unfold Part.closeWindow
  split
  · exact endFrame_moves p i _ _
  · exact .refl p

theorem falseStartBit_moves : p.FixturesMove (p.falseStartBit i) := by
  unfold Part.falseStartBit
  split
  · exact .of_fixtures (setFrame_fixtures p i _)
  · exact .refl p

theorem stuckLine_moves (recessiveSince : Bool) : p.FixturesMove (p.stuckLine i recessiveSince) := by
  have reached : ∀ (q : Part) cut, q.FixturesMove (q.stuckReaches i cut) := fun q cut => by
    unfold Part.stuckReaches
    split
    · exact finish_moves q i _
    · exact finish_moves q i _
    · exact finish_moves q i _
    · split
      · split
        · exact conclude_moves i (setWork_fixtures q i _)
        · exact .refl q
      · exact .refl q
    · exact .refl q
  have told : ∀ (q : Part) cut, q.FixturesMove
      ((((q.setLc i Line.stick).stuckReaches i cut).setLc i Line.tellStuck).raise (.line i)) := fun q cut =>
    ((Part.FixturesMove.of_fixtures (setLc_fixtures q i Line.stick)).trans (reached _ cut)).leaves (by simp)
  unfold Part.stuckLine
  dsimp only
  split
  · split
    · exact (Part.FixturesMove.of_fixtures (endFrameRecord_fixtures p i _ _)).trans (told _ _)
    · exact told p _
  · exact .refl p

end Lines

/-! ### Events of the panel -/

section PanelEvents
variable (p : Part)

theorem answerPrompt_moves (e : PanelEntry) (r : Result) : p.FixturesMove (p.answerPrompt e r) :=
  (Part.FixturesMove.of_fixtures (endShowing_fixtures p)).trans (completeStep_moves _ _ r)

theorem pressPrompt_moves (e : PanelEntry) (key : Key) : p.FixturesMove (p.pressPrompt e key) := by
  unfold Part.pressPrompt
  split
  · exact (abandonRerun_drops p _ _).moves.trans (answerPrompt_moves _ e _)
  · split
    · exact .refl p
    · exact answerPrompt_moves p e _
  · split
    · exact .refl p
    · split
      · exact answerPrompt_moves p e _
      · exact answerPrompt_moves p e _
  · split
    · exact .refl p
    · exact pressRepeat_moves p e

theorem keyPressed_moves (key : Key) : p.FixturesMove (p.keyPressed key) := by
  have noticed : ∀ q : Part, q.FixturesMove (q.pressNotice key) := fun q => by
    unfold Part.pressNotice
    split
    · exact .of_fixtures (endShowing_fixtures q)
    · exact .of_fixtures (endShowing_fixtures q)
    · exact .of_fixtures (beep_fixtures q _)
    · exact .refl q
  have taken : ∀ q : Part, q.FixturesMove (q.takePress key) := fun q => by
    unfold Part.takePress
    split
    · exact .refl q
    · split
      · exact .refl q
      · split
        · exact noticed q
        · exact pressPrompt_moves q _ key
  unfold Part.keyPressed
  split
  · exact (Part.FixturesMove.of_fixtures (setPanel_fixtures p _)).trans (taken _)
  · exact .refl p

theorem keyReleased_moves (key : Key) : p.FixturesMove (p.keyReleased key) := by
  unfold Part.keyReleased
  split
  · exact .of_fixtures (setPanel_fixtures p _)
  · exact .refl p

theorem promptExpires_moves : p.FixturesMove p.promptExpires := by
  unfold Part.promptExpires
  split
  · split
    · exact answerPrompt_moves p _ _
    · exact .refl p
  · exact .refl p

theorem render_moves : p.FixturesMove p.render := by
  unfold Part.render
  split
  · dsimp only
    split
    · exact .of_fixtures (by simp)
    · exact .refl p
  · exact .refl p

theorem noticeBeeps_moves : p.FixturesMove p.noticeBeeps := by
  unfold Part.noticeBeeps
  split
  · split
    · exact .of_fixtures (by simp)
    · exact .refl p
  · exact .refl p

theorem buzzerEnds_moves : p.FixturesMove p.buzzerEnds := by
  unfold Part.buzzerEnds
  split
  · split
    · exact .of_fixtures (setPanel_fixtures p _)
    · exact .refl p
  · exact .refl p

end PanelEvents

/-! ### Events against rack time, of the supply and of the stimulus -/

section Timed
variable (p : Part) (i : StationId)

theorem waitEnds_moves : p.FixturesMove (p.waitEnds i) := by
  unfold Part.waitEnds
  split
  · split
    · split
      · exact finish_moves p i _
      · exact .refl p
    · exact .refl p
  · exact .refl p

theorem nextAttempt_moves : p.FixturesMove (p.nextAttempt i) := by
  unfold Part.nextAttempt
  split
  · split
    · split
      · exact conclude_moves i (startAttempt_fixtures p i _ _)
      · exact .refl p
    · exact .refl p
  · exact .refl p

theorem settleExpires_moves : p.FixturesMove (p.settleExpires i) := by
  unfold Part.settleExpires
  split
  · split
    · split
      · split
        · exact finish_moves p i _
        · exact .of_fixtures (setWork_fixtures p i _)
      · exact .refl p
    · exact .refl p
  · exact .refl p

theorem listenExpires_moves : p.FixturesMove (p.listenExpires i) := by
  unfold Part.listenExpires
  split
  · split
    · split
      · exact finish_moves p i _
      · exact .refl p
    · exact .refl p
  · exact .refl p

theorem supplyStep_moves : p.FixturesMove (p.supplyStep i) := by
  unfold Part.supplyStep
  dsimp only
  split
  · split
    · exact (Part.FixturesMove.of_fixtures (setPs_fixtures p i _)).trans (finish_moves _ i _)
    · exact .of_fixtures (setPs_fixtures p i _)
  · exact .refl p

theorem monitorSample_moves (mA mV : Nat) (inLimit : Bool) : p.FixturesMove (p.monitorSample i mA mV inLimit) := by
  unfold Part.monitorSample
  split
  · exact .of_fixtures (setPs_fixtures p i _)
  · exact .refl p

theorem trip_moves : p.FixturesMove (p.trip i) := by
  unfold Part.trip
  dsimp only
  split
  · exact (Part.FixturesMove.of_fixtures (supplyLeave_fixtures p i _)).trans (faultReport_moves _ i _)
  · exact .refl p

theorem rampStep_moves (c : RampChannel) : p.FixturesMove (p.rampStep i c) := by
  have stepped : ∀ f g, p.FixturesMove ((p.setSt i f).setWalker i g) := fun f g => .of_fixtures (by simp)
  unfold Part.rampStep
  dsimp only
  split
  · exact .refl p
  · split
    · split
      · split
        · exact (stepped _ _).trans (finish_moves _ i _)
        · exact stepped _ _
      · exact stepped _ _
    · exact .refl p

end Timed

/-! ### Events of the rack and of the host -/

section Rack
variable (p : Part)

theorem writeSweep_moves : p.FixturesMove p.writeSweep := by
  unfold Part.writeSweep
  split
  · exact sweep_moves p
  · exact .refl p

theorem periodicSweep_moves : p.FixturesMove p.periodicSweep := by
  have counted : ∀ b, p.FixturesMove { p with sweepBase := b } := fun _ => .of_fixtures (fixtures_of_stations rfl)
  unfold Part.periodicSweep
  split
  · split
    · exact (counted _).trans (sweep_moves _)
    · exact .refl p
  · exact .refl p

theorem writeStnctl_moves (v : Word) : p.FixturesMove (p.writeStnctl v) := by
  refine eachStation_moves p fun i q => ?_
  dsimp only
  split
  · split
    · exact (halt_moves q i).trans (clear_moves _ i)
    · exact clear_moves q i
  · split
    · exact halt_moves q i
    · exact .refl q

theorem guardedWrite_moves (i : StationId) (c : CellId) (v : Word) : p.FixturesMove (p.guardedWrite i c v) := by
  unfold Part.guardedWrite
  dsimp only
  split
  · exact .of_fixtures rfl
  · exact .of_fixtures rfl

theorem writeMemory_moves (x : Nat) (v : Word) : p.FixturesMove (p.writeMemory x v) := by
  unfold Part.writeMemory
  split
  · exact guardedWrite_moves p _ _ v
  · exact .of_fixtures rfl

theorem bringUp_moves (raw : RawLevels) (i : StationId) : p.FixturesMove (p.bringUp raw i) := by
  have cells : (p.recoverCells i).fixtures = p.fixtures := by
    refine foldl_fixtures p (fun q c => ?_) _
    unfold Part.recoverCell
    dsimp only
    split <;> simp
  have recovered : ((p.recoverCells i).recoverRun i).fixtures = p.fixtures := by
    unfold Part.recoverRun
    rw [closeRun_fixtures, setRun_fixtures, cells]
  have line : ∀ q : Part, (q.enableLine i).fixtures = q.fixtures := fun q => by
    unfold Part.enableLine
    rw [memory_fixtures, setLc_fixtures]
  have monitors : ∀ (q : Part) levels, (q.enableMonitors i levels).fixtures = q.fixtures := fun q levels => by
    unfold Part.enableMonitors
    rw [memory_fixtures, foldl_fixtures _ fun q k => writeInput_fixtures q i k, setAq_fixtures]
  have published : ∀ q : Part, (q.publishAll i).fixtures = q.fixtures := fun _ => rfl
  unfold Part.bringUp
  exact ((Part.FixturesMove.of_fixtures recovered).setFx i fun g => g.enable_moves _).leaves
    (by rw [published, setWalker_fixtures, monitors, line])

theorem tryEnable_moves (raw : RawLevels) : p.FixturesMove (p.tryEnable raw) := by
  have recorded : ∀ e, (p.writeConfigError e).fixtures = p.fixtures := fun e => by cases e <;> rfl
  have enabled : ∀ q : Part, q.FixturesMove (q.enable raw) := fun q => by
    have up : ∀ (r : Part) (mask : BitVec 4), r.FixturesMove
        (r.eachStation fun i r => if mask.getLsbD i.val then r.bringUp raw i else r) := fun r mask => by
      refine eachStation_moves r fun i r => ?_
      split
      · exact bringUp_moves r raw i
      · exact .refl r
    have latched : q.FixturesMove { q with enabled := true, config := q.readRackConfig } :=
      .of_fixtures (fixtures_of_stations rfl)
    unfold Part.enable Part.enablePanel
    refine (latched.trans (up _ q.readRackConfig.mask)).leaves ?_
    simp
  unfold Part.tryEnable
  split
  · exact .of_fixtures (recorded _)
  · exact (Part.FixturesMove.of_fixtures (recorded _)).trans (enabled _)

end Rack

/-! ### Disable -/

/-- A fixture whose drive command is the table's keeps the command when the disable drops its CLAMP or its CONTACT: only
an ARMING fixture changes its state, and both states release (R54). -/
theorem Fixture.Dropped.drive {now : Time} {f g : Fixture} (h : f.Dropped .disabled now g)
    (lawful : f.driveLawful = true) : g.drive = f.drive := by
  induction h with
  | stands => rfl
  | clamp before ih =>
    rename_i g
    have released := before.moves.lawful lawful
    rw [← ih]
    unfold Fixture.dropClamp
    split
    · rename_i arming
      simp only [Fixture.driveLawful, arming, Bool.not_eq_true'] at released
      exact released.symm
    · rfl
    · rfl
  | contact _ ih => exact ih

/-- What a disable leaves of a fixture. -/
structure Fixture.Frozen (f g : Fixture) : Prop where
  moves : f.Moves g
  drive : f.driveLawful = true → g.drive = f.drive

theorem Fixture.Frozen.refl (f : Fixture) : f.Frozen f := ⟨.refl f, fun _ => rfl⟩

theorem Fixture.Frozen.trans {f g h : Fixture} (m : f.Frozen g) (m' : g.Frozen h) : f.Frozen h :=
  ⟨m.moves.trans m'.moves, fun law => (m'.drive (m.moves.lawful law)).trans (m.drive law)⟩

theorem takeDown_frozen (p : Part) (i j : StationId) : (p.fixtures j).Frozen ((p.takeDown i).fixtures j) := by
  unfold Part.takeDown
  split
  · exact .refl _
  · have dropped : (p.fixtures j).Frozen
        (((p.supplyOff i).abandonStep i .disabled).closeRun i |>.fixtures j) := by
      have drops := (abandonStep_drops (p.supplyOff i) i .disabled).drops j
      rw [closeRun_fixtures, ← supplyOff_fixtures p i]
      exact ⟨drops.moves, drops.drive⟩
    dsimp only
    refine dropped.trans ?_
    generalize ((p.supplyOff i).abandonStep i .disabled).closeRun i = q
    by_cases hj : i = j
    · subst hj
      simpa [Part.fixtures] using ⟨Fixture.freeze_moves _, fun _ => rfl⟩
    · simpa [Part.fixtures, hj] using Fixture.Frozen.refl _

theorem disable_frozen (p : Part) (j : StationId) : (p.fixtures j).Frozen (p.disable.fixtures j) := by
  have down : ∀ (l : List StationId) (q : Part),
      (q.fixtures j).Frozen ((l.foldl (fun q i => q.takeDown i) q).fixtures j) := by
    intro l
    induction l with
    | nil => exact fun q => .refl _
    | cons i l ih => exact fun q => (takeDown_frozen q i j).trans (ih _)
  have dark : ∀ q : Part, (q.setConv Converter.stopCheck).disablePanel.fixtures = q.fixtures := fun q => by
    unfold Part.disablePanel
    simp
  unfold Part.disable
  rw [dark]
  exact down stationIds { p with enabled := false }

theorem writeControl_moves (p : Part) (v : Word) (raw : RawLevels) : p.FixturesMove (p.writeControl v raw) := by
  have stored : ∀ (q : Part) (b : Bool) (t : Option Time),
      ({ q with sweepRequested := b, sweepBase := t } : Part).fixtures = q.fixtures := fun _ _ _ => rfl
  unfold Part.writeControl
  refine .leaves ?_ (stored _ _ _)
  split
  · exact tryEnable_moves p raw
  · split
    · exact fun j => (disable_frozen p j).moves
    · exact .refl p

/-- A write that clears ENABLE leaves the fixtures as the disable does. -/
theorem writeControl_disables {p : Part} {v : Word} (raw : RawLevels) (he : p.enabled = true)
    (hv : writtenEnable v = false) : (p.writeControl v raw).fixtures = p.disable.fixtures := by
  have written : p.writeControl v raw =
      { p.disable with sweepRequested := writtenMode v, sweepBase := sweepTimer p p.disable (writtenMode v) } := by
    simp [Part.writeControl, hv, he]
  have stored : ∀ (q : Part) (b : Bool) (t : Option Time),
      ({ q with sweepRequested := b, sweepBase := t } : Part).fixtures = q.fixtures := fun _ _ _ => rfl
  rw [written, stored]

/-! ### Every command -/

/-- A reset of a part that runs leaves every fixture without a state and its drive releasing. -/
theorem resetRunning_driveLaw (p : Part) (cause : ResetCause) : (p.resetRunning cause).DriveLaw := fun j => by
  simp only [Part.resetRunning, Part.resetBlocks, Part.station, Fin.getElem_fin, mapEach_get]
  rfl

theorem resetPin_driveLaw {p : Part} (law : p.DriveLaw) : p.resetPin.DriveLaw := by
  cases hr : p.inReset with
  | none =>
    rw [resetPin_runs hr]
    exact resetRunning_driveLaw p .pin
  | some _ =>
    rw [resetPin_held hr]
    exact law

theorem powerOn_driveLaw (p : Part) (contents : List Host.Cell) : (p.powerOn contents).DriveLaw := fun j => by
  rw [show (p.powerOn contents).station j = State.reset.part.station j from rfl, reset_station]
  rfl

theorem take_driveLaw {p : Part} (law : p.DriveLaw) {f : Part → Part} (h : p.FixturesMove (f p)) :
    (p.take f).DriveLaw := by
  unfold Part.take
  split
  · exact law
  · exact h.driveLaw law

theorem rackctlWrite_driveLaw {p : Part} (law : p.DriveLaw) (v : Word) (raw : RawLevels) :
    (p.rackctlWrite v raw).DriveLaw := by
  unfold Part.rackctlWrite
  split
  · exact law
  · split
    · exact resetRunning_driveLaw p .soft
    · exact (writeControl_moves p v raw).driveLaw law

theorem writeRegister_driveLaw {p : Part} (law : p.DriveLaw) (r : Register) (v : Word) :
    (p.writeRegister r v).DriveLaw := by
  have taken := fun f h => take_driveLaw law (f := f) h
  cases r with
  | ident | racktime | guardlog => exact taken (fun q => q) (.refl p)
  | rackctl => exact rackctlWrite_driveLaw law v _
  | sweep => exact taken _ (writeSweep_moves p)
  | stnctl => exact taken (fun q => q.writeStnctl v) (writeStnctl_moves p v)
  | attn => exact taken (fun q => q.writeAttn v) (.of_fixtures rfl)
  | attnmask => exact taken (fun q => q.writeAttnMask v) (.of_fixtures rfl)

theorem hostWrite_driveLaw {p : Part} (law : p.DriveLaw) (k : BitVec 14) (v : Word) :
    (p.hostWrite k v).DriveLaw := by
  unfold Part.hostWrite
  split
  · exact writeRegister_driveLaw law _ v
  · exact take_driveLaw law (writeMemory_moves p _ v)

/-- Every command keeps the drive command of each fixture the one of the table. -/
theorem exec_driveLaw {c : Instr} {s t : State} (law : s.part.DriveLaw) (h : exec c s = .next t) :
    t.part.DriveLaw := by
  have event : ∀ f : Part → Part, s.event f = .next t → s.part.FixturesMove (f s.part) → t.part.DriveLaw :=
    fun f h moves => by
      cases h
      exact take_driveLaw law moves
  cases c with
  | powerOnReset contents => cases h; exact powerOn_driveLaw _ contents
  | resetPinAsserted => cases h; exact resetPin_driveLaw law
  | softReset v => cases h; exact rackctlWrite_driveLaw law v _
  | rackEnable v raw => cases h; exact rackctlWrite_driveLaw law v raw
  | rackDisable v => cases h; exact rackctlWrite_driveLaw law v _
  | sweepmodeWrite v => cases h; exact rackctlWrite_driveLaw law v _
  | sweepWrite v => exact event _ h (writeSweep_moves s.part)
  | periodicSweep => exact event _ h (periodicSweep_moves s.part)
  | stationHalt v => exact event _ h (writeStnctl_moves s.part v)
  | stationClear v => exact event _ h (writeStnctl_moves s.part v)
  | attnClear v => exact event _ h (.of_fixtures rfl)
  | attnmaskWrite v => exact event _ h (.of_fixtures rfl)
  | guardlogRead =>
    cases h
    unfold Part.readGuardLog
    split <;> exact law
  | registerWriteIgnored r v => cases h; exact writeRegister_driveLaw law r v
  | hostMemoryWrite k v => cases h; exact hostWrite_driveLaw law k v
  | hostCellStateWrite i c v => exact event _ h (guardedWrite_moves s.part i c v)
  | rackTimeTick keys fixtures => cases h; exact rackTick_driveLaw keys fixtures law
  | waitExpiry i => exact event _ h (waitEnds_moves s.part i)
  | fixtureDebounceChange i k => cases h; exact debounceChange_driveLaw i k law
  | fixtureCodeChange i d => cases h; exact codeChange_driveLaw i d law
  | twoHandTimeout i => exact event _ h (handTimeout_moves s.part i)
  | travelTimeout i => exact event _ h (travelExpiry_moves s.part i)
  | supplyRampStep i => exact event _ h (supplyStep_moves s.part i)
  | supplyMonitorSample i mA mV b => exact event _ h (monitorSample_moves s.part i _ _ b)
  | supplyTrip i => exact event _ h (trip_moves s.part i)
  | stimulusRampStep i k => exact event _ h (rampStep_moves s.part i k)
  | pgPeriodBoundary i g => exact event _ h (.of_fixtures (setSt_fixtures s.part i _))
  | scheduleEntryDue i e => exact event _ h (scheduleDue_moves s.part i e)
  | wireFree i => exact event _ h (wireFree_moves s.part i)
  | lineSyncComplete i => exact event _ h (syncComplete_moves s.part i)
  | bitError i b => exact event _ h (bitFault_moves s.part i b)
  | frameEnd i b => exact event _ h (sendEnds_moves s.part i b)
  | responseCharacterReceived i x => exact event _ h (hearCharacter_moves s.part i x)
  | responseAllowanceExpiry i => exact event _ h (allowanceEnds_moves s.part i)
  | responseWindowClose i b => exact event _ h (closeWindow_moves s.part i b)
  | lineStuck i b => exact event _ h (stuckLine_moves s.part i b)
  | sampleEnd v => exact event _ h (sampleEnds_moves s.part v)
  | inputFilteredEdge i k tick => exact event _ h (inputEdge_moves s.part i k tick)
  | inputExcursionRejected i k => exact event _ h (inputReject_moves s.part i k)
  | edgeWindowClose i => exact event _ h (windowEnds_moves s.part i)
  | meterGateEnd i n => exact event _ h (.of_fixtures (setAq_fixtures s.part i _))
  | meterDeadline i n => exact event _ h (meterExpires_moves s.part i n)
  | lampIdentityRead i b => exact event _ h (identityRead_moves s.part i b)
  | lampRowUpdate i v => exact event _ h (rowUpdate_moves s.part i v)
  | attemptStart i => exact event _ h (nextAttempt_moves s.part i)
  | settleTimeout i => exact event _ h (settleExpires_moves s.part i)
  | listenTimeout i => exact event _ h (listenExpires_moves s.part i)
  | keyPress k => exact event _ h (keyPressed_moves s.part k)
  | promptTimeout => exact event _ h (promptExpires_moves s.part)
  | panelRender => exact event _ h (render_moves s.part)
  | noticeBeep => exact event _ h (noticeBeeps_moves s.part)
  | buzzerEnd => exact event _ h (buzzerEnds_moves s.part)
  | resetEnd =>
    cases h
    unfold Part.endReset
    split <;> exact law
  | keyRelease k => exact event _ h (keyReleased_moves s.part k)
  | responseWindowOpen i b => exact event _ h (openWindow_moves s.part i b)
  | falseStart i => exact event _ h (falseStartBit_moves s.part i)

/-- Settles O7: every command moves the fixtures through states that set the drive command with them; a disable drops
CLAMPs and CONTACTs and freezes what is left. -/
theorem driveFollowsFixtureState : Obligations.DriveFollowsFixtureState := by
  refine ⟨fun s t law h => ?_, fun f lawful => ⟨fun released => ?_, fun closed => ?_⟩,
    fun s t v law hr he h0 h1 h i => ?_⟩
  · unfold step at h
    split at h
    · cases h
      exact law
    · rename_i c rest _
      exact exec_driveLaw (s := { s with pending := rest }) law h
  · obtain h | h | h | h := released <;> simpa [Fixture.driveLawful, h] using lawful
  · obtain h | h := closed <;> simpa [Fixture.driveLawful, h] using lawful
  · cases h
    show ((s.part.rackctlWrite v s.part.heldLevels).station i).fx.drive = _
    rw [rackctl_runs _ _ _ hr h0, commit_station]
    have frozen := disable_frozen s.part i
    rw [← writeControl_disables s.part.heldLevels he h1] at frozen
    exact frozen.drive (law i)

end Sys2Proof.Machine
end

