-- ==== Sys2Proof/Proofs/FixtureEvents.lean ====
section
/-! What the events of a fixture controller do (R50 to R52, R58, R61, R63 to R66): the debounced changes, those that no
rule answers and those that take a CLAMPED unit's supply, and the two timers. -/

namespace Sys2Proof.Machine

/-- A command of the debouncers, which a reset does not stop, answered by any change that agrees with its event's on
this state. -/
theorem answers_always {c : Instr} {s : State} {g : Part → Part} (f : Part → Part) (hc : exec c s = s.always f)
    (e : f s.part = g s.part) : Answers c s g := by
  rw [Answers, hc, State.always, e]

/-! ### Debouncers -/

theorem codeDue_iff (f : Fixture) (limit : Nat) (c : BitVec 6) :
    f.codeDue limit c = true ↔ c = f.codeRaw ∧ c ≠ f.code ∧ limit ≤ f.codeCount := by
  simp only [Fixture.codeDue, Bool.and_eq_true, decide_eq_true_eq, and_assoc]

theorem codeChange_held {p : Part} {i : StationId} {c : BitVec 6} (h : p.CodeHeld i c) :
    p.codeChange i c = p.setFx i fun f => f.takeCode c := if_pos ((codeDue_iff _ _ _).mpr h)

theorem codeChange_waits {p : Part} {i : StationId} {c : BitVec 6} (h : ¬p.CodeHeld i c) : p.codeChange i c = p :=
  if_neg fun due => h ((codeDue_iff _ _ _).mp due)

theorem flip_get (l : FixtureLevels) (k j : FixtureInput) :
    (l.flip k).get j = if j = k then !l.get j else l.get j := by
  cases k <;> cases j <;> rfl

theorem inputNumber_injective : Function.Injective inputNumber := by
  intro j k h
  revert h
  cases j <;> cases k <;> decide

theorem takeInput_raw_get (f : Fixture) (k j : FixtureInput) :
    (f.takeInput k).raw[inputNumber j] = if j = k then 0 else f.raw[inputNumber j] := by
  rw [takeInput_raw]
  by_cases h : j = k
  · subst h
    simp
  · simp [h, inputNumber_injective.ne (Ne.symm h)]

/-! ### A debounced change -/

section Change
variable {p : Part} {i : StationId} {k : FixtureInput}

theorem debounceChange_waits (h : ¬p.InputHeld i k) : p.debounceChange i k = p :=
  if_neg fun due => h (of_decide_eq_true due)

variable (h : p.InputHeld i k)

include h

theorem debounceChange_held :
    p.debounceChange i k =
      if (p.station i).walker.state = .off then p.setFx i fun f => f.takeInput k
      else (p.setFx i fun f => f.takeInput k).fixtureOutcome i k (!(p.station i).fx.levels.get k) := by
  have level : (((p.setFx i fun f => f.takeInput k).station i).fx.levels.get k) = !(p.station i).fx.levels.get k := by
    rw [setFx_station_same, takeInput_levels, flip_get, if_pos rfl]
  rw [← level]
  exact if_pos (decide_eq_true h)

theorem debounceChange_off (off : (p.station i).walker.state = .off) :
    p.debounceChange i k = p.setFx i fun f => f.takeInput k := by
  rw [debounceChange_held h, if_pos off]

theorem debounceChange_on (on : (p.station i).walker.state ≠ .off) :
    p.debounceChange i k =
      (p.setFx i fun f => f.takeInput k).fixtureOutcome i k (!(p.station i).fx.levels.get k) := by
  rw [debounceChange_held h, if_neg on]

end Change

/-- No rule of 03 gives a fixture an outcome for an input that comes to read a level. -/
def Fixture.Unanswered (f : Fixture) (k : FixtureInput) (level : Bool) : Prop :=
  match f.state with
  | none | some .opened => True
  | some .opening | some .jammed => k = .opened → level = false
  | some .clamped => k = .guard ∨ k = .nest → level = true
  | some .closing =>
    (k = .closed → level = false) ∧ (k = .guard → level = true) ∧
      (k = .startL ∨ k = .startR → f.twoHand = true → level = true)
  | some .arming => k ≠ .startL ∧ k ≠ .startR ∧ (k = .guard → level = true)

theorem fixtureOutcome_unanswered {p : Part} {i : StationId} {k : FixtureInput} {level : Bool}
    (h : (p.station i).fx.Unanswered k level) : p.fixtureOutcome i k level = p := by
  unfold Fixture.Unanswered at h
  unfold Part.fixtureOutcome
  dsimp only
  split <;> simp_all

/-- Settles O38: a change waits for its debouncer, takes its level or its code, and stands alone where the fixture's
state gives it no outcome. -/
theorem fixtureChangesAreRecorded : Obligations.FixtureChangesAreRecorded := by
  refine ⟨fun s i c => ⟨fun held => ?_, fun waits => ?_⟩, fun s i k waits => ?_, fun f k => ⟨rfl, fun j => ?_⟩,
    fun f limit r => ⟨fun k still => ?_, fun k differs anew => ?_, fun k differs holds counts => ?_, fun c code => ?_,
      fun code => ?_⟩, fun s i k held unanswered => ?_⟩
  · exact answers_always (fun p => p.codeChange i c) rfl (codeChange_held held)
  · exact answers_always (fun p => p.codeChange i c) rfl (codeChange_waits waits)
  · exact answers_always (fun p => p.debounceChange i k) rfl (debounceChange_waits waits)
  · exact ⟨flip_get f.levels k j, takeInput_raw_get f k j⟩
  · exact (countRaw_raw f limit r _).trans (by rw [rawCount, still, countHeld_none])
  · exact (countRaw_raw f limit r _).trans (by rw [rawCount, differs, anew, countHeld_anew])
  · exact (countRaw_raw f limit r _).trans (by rw [rawCount, differs, holds, countHeld_on, countUp, if_pos counts])
  · obtain ⟨raw, count⟩ := (countRaw_cases f limit r).2 c code
    exact ⟨raw, fun same => by rw [count, if_pos same], fun other => by rw [count, if_neg other]⟩
  · obtain ⟨raw, count⟩ := (countRaw_cases f limit r).1 code
    exact ⟨raw, fun same => by rw [count, if_pos same],
      fun other counts => by rw [count, if_neg other, if_pos counts]⟩
  · refine answers_always (fun p => p.debounceChange i k) rfl ?_
    by_cases off : (s.part.station i).walker.state = .off
    · exact debounceChange_off held off
    · refine (debounceChange_on held off).trans (fixtureOutcome_unanswered ?_)
      rw [setFx_station_same]
      simp only [Fixture.Unanswered, takeInput_state]
      obtain h | h | ⟨h | h, opened⟩ | ⟨h, guard, nest⟩ | ⟨h, input⟩ | ⟨h, input⟩ :=
        unanswered.resolve_left off
      all_goals simp only [h]
      · rintro rfl
        simpa [FixtureLevels.get] using opened
      · rintro rfl
        simpa [FixtureLevels.get] using opened
      · rintro (rfl | rfl)
        · simpa [FixtureLevels.get] using guard
        · simpa [FixtureLevels.get] using nest
      · obtain rfl | rfl | ⟨rfl, level⟩ | ⟨rfl, level⟩ | ⟨rfl, level⟩ | ⟨rfl, level⟩ | ⟨rfl | rfl, level⟩ := input
        all_goals simp_all [FixtureLevels.get, Fixture.takeInput]
      · obtain rfl | rfl | rfl | ⟨rfl, level⟩ := input
        all_goals simp_all [FixtureLevels.get]

/-! ### Timers -/

/-- The CLAMP in flight fails with the flags it has gathered. -/
theorem failClamp_works {p : Part} {i : StationId} {t : Step} {limited due : Bool} (h : p.Works i t (.clamp limited due))
    (r : Reason) (value aux : Nat) :
    p.failClamp i r value aux =
      p.completeStep i (.fail r (flagIf limited resLimited ||| flagIf due resServiceDue) value aux) := by
  have work := work_works p i t _ h
  obtain ⟨rerun, -, -⟩ := h
  simp only [Part.failClamp, work, Work.clampFlags]
  exact finish_step p i _ rerun

/-- A change of the fixture leaves what the station is doing. -/
theorem works_setFx {p : Part} {i : StationId} {t : Step} {k : Work} (f : Fixture → Fixture) (h : p.Works i t k) :
    (p.setFx i f).Works i t k := by
  rw [Part.Works, setFx_station_same]
  exact h

theorem handTimeout_expired {p : Part} {i : StationId} {start : Time} {ms : Nat}
    (state : (p.station i).fx.state = some .arming) (timer : (p.station i).fx.handTimer = some (start, ms))
    (expired : ms ≤ p.since start) :
    p.handTimeout i = (p.setFx i Fixture.toOpen).failClamp i .timeout 0 (p.station i).fx.capturedNumber := by
  simp only [Part.handTimeout, state, timer]
  exact if_pos (decide_eq_true expired)

theorem travelExpiry_expired {p : Part} {i : StationId} {start : Time}
    (state : (p.station i).fx.state = some .closing ∨ (p.station i).fx.state = some .opening)
    (timer : (p.station i).fx.travelStart = some start)
    (expired : (p.station i).fx.travelTimeout ≤ p.since start) : p.travelExpiry i = p.jam i := by
  obtain state | state := state
  all_goals
    simp only [Part.travelExpiry, state, timer]
    exact if_pos (decide_eq_true expired)

/-- The report of a jam leaves the debounced levels, by which the fixture opens after it or not (R64). -/
theorem jam_eq (p : Part) (i : StationId) :
    p.jam i =
      if (p.station i).fx.levels.opened = true
      then ((p.setFx i Fixture.toJammed).faultReport i .jammed).setFx i Fixture.toOpen
      else (p.setFx i Fixture.toJammed).faultReport i .jammed := by
  have levels : (((p.setFx i Fixture.toJammed).faultReport i .jammed).station i).fx.levels =
      (p.station i).fx.levels := by
    have reported := (faultReport_moves (p.setFx i Fixture.toJammed) i .jammed i).levels
    rw [Part.fixtures, Part.fixtures, setFx_station_same] at reported
    exact reported
  unfold Part.jam
  dsimp only
  rw [levels]

/-- Settles O40: each timer at its expiry, and the levels that a fault report leaves. -/
theorem fixtureTimersExpire : Obligations.FixtureTimersExpire := by
  refine ⟨fun s i t limited code start ms hr works fixture expired => ?_, fun s i start hr fixture => ?_⟩
  · obtain ⟨state, timer, captured⟩ := fixture
    refine answers_event (fun p => p.handTimeout i) rfl hr ?_
    have flags : flagIf limited resLimited ||| flagIf false resServiceDue = if limited then resLimited else 0 := by
      cases limited <;> rfl
    have number : (s.part.station i).fx.capturedNumber = code.toNat := by rw [Fixture.capturedNumber, captured]
    rw [handTimeout_expired state timer expired, failClamp_works (works_setFx _ works), flags, number]
    rfl
  · obtain ⟨state, timer, expired⟩ := fixture
    have jams := (travelExpiry_expired state timer expired).trans (jam_eq s.part i)
    refine ⟨fun opened => ?_, fun opened => ?_⟩
    · refine answers_event (fun p => p.travelExpiry i) rfl hr (jams.trans (if_neg ?_))
      rw [opened]
      decide
    · exact answers_event (fun p => p.travelExpiry i) rfl hr (jams.trans (if_pos opened))

/-! ### A CLAMPED unit -/

section Clamped
variable {p : Part} {i : StationId} (state : (p.station i).fx.state = some .clamped)

include state

theorem fixtureOutcome_guardOpens : p.fixtureOutcome i .guard false = p.guardCut i := by
  simp only [Part.fixtureOutcome, state]

theorem fixtureOutcome_nestLost : p.fixtureOutcome i .nest false = p.nestLoss i := by
  simp only [Part.fixtureOutcome, state]

end Clamped

/-- Settles O41: the change is taken, and then the guard's cut or the loss of the nest by the supply's state. -/
theorem heldUnitLosesGuardOrNest : Obligations.HeldUnitLosesGuardOrNest := by
  intro s i _ on clamped
  have state : ∀ k, ((s.part.setFx i fun f => f.takeInput k).station i).fx.state = some .clamped := fun k => by
    rw [setFx_station_same]
    exact clamped
  have supply : ∀ k, ((s.part.setFx i fun f => f.takeInput k).station i).ps = (s.part.station i).ps := fun k => by
    rw [setFx_station_same]
  have guard : s.part.InputHeld i .guard → (s.part.station i).fx.levels.guard = true →
      s.part.debounceChange i .guard = (s.part.setFx i fun f => f.takeInput .guard).guardCut i := fun held closed => by
    rw [debounceChange_on held on, FixtureLevels.get, closed]
    exact fixtureOutcome_guardOpens (state .guard)
  have nest : s.part.InputHeld i .nest → (s.part.station i).fx.levels.nest = true →
      s.part.debounceChange i .nest = (s.part.setFx i fun f => f.takeInput .nest).nestLoss i := fun held there => by
    rw [debounceChange_on held on, FixtureLevels.get, there]
    exact fixtureOutcome_nestLost (state .nest)
  have answers : ∀ k {g : Part → Part}, s.part.debounceChange i k = g s.part →
      Answers (.fixtureDebounceChange i k) s g := fun k _ => answers_always (fun p => p.debounceChange i k) rfl
  refine ⟨fun held closed live => ?_, fun held closed dead => ?_, fun held there live => ?_,
    fun held there dead => ?_⟩
  · exact answers .guard ((guard held closed).trans (if_pos (by rw [supply, live])))
  · exact answers .guard ((guard held closed).trans (if_neg (by rw [supply, dead]; decide)))
  · refine answers .nest ((nest held there).trans ?_)
    rw [Part.nestLoss, Part.supplyCut, if_pos (by rw [supply, live])]
  · refine answers .nest ((nest held there).trans ?_)
    rw [Part.nestLoss, Part.supplyCut, if_neg (by rw [supply, dead]; decide)]

end Sys2Proof.Machine
end

