-- ==== Sys2Proof/Proofs/WaitingMeasure.lean ====
section
/-! A MEASURE in flight at a station that is WAITING. No command makes one, but the statement on the converter is of any
part that meets the laws of the panel and of the converter's queue, and neither law excludes it: a step may be in flight
at a WAITING station, and only a prompt on the panel says which. Its next attempt places a conversion request for a
station that is not BUSY. -/

namespace Sys2Proof.Machine

/-- A MEASURE of channel 0 that gathers nothing, its next attempt due at rack time 0. -/
def witnessMeasure : MeasureWork :=
  { params :=
      { source := .analog 0 0
        cal := { offset16 := 0, hold := 0, unit := 0, gain := 65536, base := 0 }
        window := .abs 0 0
        hits := 1
        settle := 0
        interval := 0 }
    attempts := 0
    hits := 0
    last := none
    lastMiss := none
    refSuspect := false
    saturated := false
    traceFull := false
    gathering := .none
    nextStart := 0
    expired := false }

/-- The MEASURE as the step of cell 0. -/
def witnessMeasureStep : Step :=
  { cell := 0, kind := 0x30, flags := 0, tag := 0, params := 0, takeTime := 0, counted := false
    work := .measure witnessMeasure }

/-- An enabled rack with the MEASURE in flight at station 0, which is WAITING; the panel and the queue are empty. -/
def waitingMeasure : Part :=
  { Part.reset with
    enabled := true
    stations := put Part.reset.stations 0
      { Station.reset with
        walker := { Walker.reset with
          state := .waiting
          step := some witnessMeasureStep } } }

theorem waitingMeasure_panelLaw : waitingMeasure.PanelLaw where
  once := List.nodup_nil
  notices := fun e he => nomatch he
  prompts := fun e he => nomatch he
  reruns := fun i t h => by
    have none : ∀ i, (waitingMeasure.station i).walker.rerun = none := by decide
    rw [none] at h
    cases h
  steps := by decide
  dark := fun h => nomatch h

theorem waitingMeasure_convLaw : waitingMeasure.ConvLaw := fun i h => by
  have empty : ∀ i : StationId, waitingMeasure.conv.queue[i].isSome = false := by decide
  rw [empty] at h
  cases h

/-- The start of the attempt places the request, and the station goes on WAITING. -/
theorem waitingMeasure_attempt :
    (waitingMeasure.nextAttempt 0).conv.queue[(0 : StationId)].isSome = true ∧
      ((waitingMeasure.nextAttempt 0).station 0).walker.state = .waiting := by
  decide

/-- Refutes O52: the law of the queue is not kept by the next attempt of a MEASURE whose station is WAITING, which the
law of the panel allows. -/
theorem not_converterSamplesEnd : ¬Obligations.ConverterSamplesEnd := by
  rintro ⟨keeps, -⟩
  have answer : step { part := waitingMeasure, pending := [.attemptStart 0] } =
      .next { part := Part.commit waitingMeasure (waitingMeasure.nextAttempt 0), pending := [] } :=
    event_runs { part := waitingMeasure, pending := [] } (fun p => p.nextAttempt 0) rfl
  obtain ⟨placed, waiting⟩ := waitingMeasure_attempt
  obtain ⟨busy, -⟩ := keeps _ _ waitingMeasure_panelLaw waitingMeasure_convLaw answer 0 placed
  rw [commit_station, waiting] at busy
  cases busy

end Sys2Proof.Machine
end

section
/-! What an operation keeps of the laws of the supply: R84 (a dead supply's stimulus is parked and its line DORMANT)
and R73 (a live supply has a held fixture, at a station that is not OFF) with the step law beside it (R25). Both laws
speak of one station column; `Station.Keeps` says that a change of a column keeps them, and `Part.Keeps` that an
operation of the part does so at every station. -/

namespace Sys2Proof.Machine

/-! ### The laws of one station column -/

/-- A unit is held: CLAMPED, with a part in the nest and the guard closed (R73). -/
structure Fixture.Holds (f : Fixture) : Prop where
  state : f.state = some .clamped
  nest : f.levels.nest = true
  guard : f.levels.guard = true

/-- R84 as a proposition. -/
def Station.Parked (x : Station) : Prop := x.ps.live = false → x.st = .park ∧ x.lc.still = true

/-- R73 and R25 as propositions. -/
structure Station.Held (x : Station) : Prop where
  live : x.ps.live = true → x.fx.Holds ∧ x.walker.state ≠ .off
  steps : x.walker.step ≠ none → x.walker.state = .busy ∨ x.walker.state = .waiting

theorem deadIsParked_iff (x : Station) : x.deadIsParked = true ↔ x.Parked := by
  cases h : x.ps.live <;> simp [Station.deadIsParked, Station.Parked, h]

theorem liveIsHeld_iff (x : Station) :
    x.liveIsHeld = true ↔ (x.ps.live = true → x.fx.Holds ∧ x.walker.state ≠ .off) := by
  have holds : x.fx.Holds ↔
      x.fx.state = some .clamped ∧ x.fx.levels.nest = true ∧ x.fx.levels.guard = true :=
    ⟨fun ⟨a, b, c⟩ => ⟨a, b, c⟩, fun ⟨a, b, c⟩ => ⟨a, b, c⟩⟩
  cases h : x.ps.live <;> simp [Station.liveIsHeld, h, holds, and_assoc]

theorem stepLawful_iff (w : Walker) :
    w.stepLawful = true ↔ (w.step ≠ none → w.state = .busy ∨ w.state = .waiting) := by
  cases h : w.state <;> cases hs : w.step <;> simp [Walker.stepLawful, h, hs]

theorem held_iff (x : Station) : x.Held ↔ x.liveIsHeld = true ∧ x.walker.stepLawful = true := by
  rw [liveIsHeld_iff, stepLawful_iff]
  exact ⟨fun ⟨a, b⟩ => ⟨a, b⟩, fun ⟨a, b⟩ => ⟨a, b⟩⟩

theorem still_iff (l : Line) :
    l.still = true ↔ l.state = .dormant ∧ l.schedule = none ∧ l.due = [] ∧ l.frame = none ∧
      l.pendingReload = none ∧ l.pendingStop = false := by
  simp [Line.still, and_assoc]

/-! ### Changes of one station column -/

/-- A change of a station column that keeps both laws, and whether the station is OFF. -/
structure Station.Keeps (x y : Station) : Prop where
  parked : x.Parked → y.Parked
  held : x.Held → y.Held
  off : x.Held → (y.walker.state = .off ↔ x.walker.state = .off)

namespace Station.Keeps

variable {x y z : Station}

theorem refl (x : Station) : x.Keeps x := ⟨id, id, fun _ => .rfl⟩

theorem trans (h : x.Keeps y) (h' : y.Keeps z) : x.Keeps z :=
  ⟨h'.parked ∘ h.parked, h'.held ∘ h.held, fun hx => (h'.off (h.held hx)).trans (h.off hx)⟩

/-- The walker goes on in its state; it may lose its step. -/
theorem walker (h : x.Keeps y) {w : Walker} (state : w.state = y.walker.state)
    (step : y.walker.step = none → w.step = none) : x.Keeps { y with walker := w } where
  parked := h.parked
  held hx := {
    live := fun l => by rw [state]; exact (h.held hx).live l
    steps := fun s => by rw [state]; exact (h.held hx).steps fun e => s (step e) }
  off hx := by rw [state]; exact h.off hx

/-- The walker of a station that is not OFF enters another state. -/
theorem enters (h : x.Keeps y) (on : x.Held → x.walker.state ≠ .off) {w : Walker} (state : w.state ≠ .off)
    (steps : x.Held → w.step ≠ none → w.state = .busy ∨ w.state = .waiting) :
    x.Keeps { y with walker := w } where
  parked := h.parked
  held hx := {
    live := fun l => ⟨((h.held hx).live l).1, state⟩
    steps := steps hx }
  off hx := ⟨fun o => absurd o state, fun o => absurd o (on hx)⟩

/-- The fixture controller changes, but for a unit held under a live supply. -/
theorem fixture (h : x.Keeps y) {f : Fixture} (hf : x.Held → y.ps.live = true → y.fx.Holds → f.Holds) :
    x.Keeps { y with fx := f } where
  parked := h.parked
  held hx := {
    live := fun l =>
      have ⟨holds, on⟩ := (h.held hx).live l
      ⟨hf hx l holds, on⟩
    steps := (h.held hx).steps }
  off := h.off

/-- The supply changes and stays live or dead. -/
theorem supply (h : x.Keeps y) {u : Supply} (hu : u.live = y.ps.live) : x.Keeps { y with ps := u } where
  parked hx dead := h.parked hx (hu.symm.trans dead)
  held hx := ⟨fun l => (h.held hx).live (hu.symm.trans l), (h.held hx).steps⟩
  off := h.off

/-- The supply is made live over a held unit (R75). -/
theorem powered (h : x.Keeps y) (on : x.Held → x.walker.state ≠ .off) {u : Supply} (hu : u.live = true)
    (holds : y.fx.Holds) : x.Keeps { y with ps := u } where
  parked _ dead := by rw [hu] at dead; cases dead
  held hx := ⟨fun _ => ⟨holds, fun o => on hx ((h.off hx).mp o)⟩, (h.held hx).steps⟩
  off := h.off

/-- The stimulus changes, but for one parked under a dead supply. -/
theorem stimulus (h : x.Keeps y) {s : Stimulus} (hs : y.ps.live = false → y.st = .park → s = .park) :
    x.Keeps { y with st := s } where
  parked hx dead :=
    have ⟨park, still⟩ := h.parked hx dead
    ⟨hs dead park, still⟩
  held hx := ⟨(h.held hx).live, (h.held hx).steps⟩
  off := h.off

/-- The line changes, but for one that is still under a dead supply. -/
theorem line (h : x.Keeps y) {l : Line} (hl : y.ps.live = false → y.lc.still = true → l.still = true) :
    x.Keeps { y with lc := l } where
  parked hx dead :=
    have ⟨park, still⟩ := h.parked hx dead
    ⟨park, hl dead still⟩
  held hx := ⟨(h.held hx).live, (h.held hx).steps⟩
  off := h.off

theorem monitors (h : x.Keeps y) (a : Monitors) : x.Keeps { y with aq := a } :=
  ⟨h.parked, fun hx => ⟨(h.held hx).live, (h.held hx).steps⟩, h.off⟩

/-- The supply goes OFF or TRIPPED with its propagation (R84). -/
theorem cut (h : x.Keeps y) {dest : SupplyState} (dead : (y.ps.cut dest).live = false) :
    x.Keeps { y with ps := y.ps.cut dest, st := .park, lc := y.lc.supplyLoss } where
  parked _ _ := ⟨rfl, rfl⟩
  held hx := ⟨fun l => Bool.noConfusion (dead.symm.trans l), (h.held hx).steps⟩
  off := h.off

end Station.Keeps

/-! ### Walkers that go on in their state -/

theorem setWork_state (w : Walker) (k : Work) : (w.setWork k).state = w.state := by
  unfold Walker.setWork
  split <;> rfl

theorem setWork_step_none {w : Walker} (k : Work) (h : w.step = none) : (w.setWork k).step = none := by
  unfold Walker.setWork
  split
  · exact h
  · exact congrArg (Option.map _) h

theorem onceStarts_eq (w : Walker) (e : Fin 16) : w.onceStarts e = w ∨ ∃ k, w.onceStarts e = w.setWork k := by
  unfold Walker.onceStarts
  split
  · split
    · exact .inr ⟨_, rfl⟩
    · exact .inl rfl
  · exact .inl rfl

theorem countStep_eq (w : Walker) (c : RampChannel) : w.countStep c = w ∨ ∃ k, w.countStep c = w.setWork k := by
  unfold Walker.countStep
  split
  · split
    · exact .inr ⟨_, rfl⟩
    · exact .inl rfl
  · exact .inl rfl

/-! ### Operations of the part -/

/-- An operation of the part that keeps the laws of the supply at every station. -/
structure Part.Keeps (p q : Part) : Prop where
  enabled : q.enabled = p.enabled
  station : ∀ j, (p.station j).Keeps (q.station j)

/-- A station that is not OFF, where its column is lawful. -/
def Part.On (p : Part) (i : StationId) : Prop := (p.station i).Held → (p.station i).walker.state ≠ .off

theorem Part.On.of_state {p : Part} {i : StationId} (h : (p.station i).walker.state ≠ .off) : p.On i := fun _ => h

theorem Part.On.of_step {p : Part} {i : StationId} {t : Step} (h : (p.station i).walker.step = some t) : p.On i :=
  fun held o => by
    have moving := held.steps (by rw [h]; nofun)
    rw [o] at moving
    obtain e | e := moving <;> cases e

/-- The line is free to change: its supply is live, or it is not still. -/
def Station.Awake (x : Station) : Prop := x.ps.live = true ∨ x.lc.still = false

/-- What a change of the line must keep. -/
def Station.LineMay (x : Station) (l : Line) : Prop := x.ps.live = false → x.lc.still = true → l.still = true

theorem Station.Awake.may {x : Station} (h : x.Awake) (l : Line) : x.LineMay l := fun dead still => by
  rw [Station.Awake, dead, still] at h
  simp at h

namespace Part.Keeps

variable {p q r : Part}

theorem refl (p : Part) : p.Keeps p := ⟨rfl, fun _ => .refl _⟩

theorem trans (h : p.Keeps q) (h' : q.Keeps r) : p.Keeps r :=
  ⟨h'.enabled.trans h.enabled, fun j => (h.station j).trans (h'.station j)⟩

/-- An operation that leaves the station columns and the enable, after others. -/
theorem leaves (h : p.Keeps q) (hs : r.stations = q.stations) (he : r.enabled = q.enabled) : p.Keeps r :=
  ⟨he.trans h.enabled, fun j => by
    rw [show r.station j = q.station j by rw [Part.station, Part.station, hs]]
    exact h.station j⟩

section Rest
variable (h : p.Keeps q)
include h

theorem memory (m : Memory) : p.Keeps { q with mem := m } := h.leaves rfl rfl
theorem poke16 (x v : Nat) : p.Keeps (q.poke16 x v) := h.leaves rfl rfl
theorem poke32 (x v : Nat) : p.Keeps (q.poke32 x v) := h.leaves rfl rfl
theorem setCellState (j : StationId) (c : CellId) (code : Byte) : p.Keeps (q.setCellState j c code) :=
  h.leaves rfl rfl
theorem mark (j : StationId) (w : BitVec 64) : p.Keeps (q.mark j w) := h.leaves rfl rfl
theorem passing (j : StationId) (f : Station → Station) : p.Keeps (q.passing j f) := h.leaves rfl rfl
theorem setPanel (f : Panel → Panel) : p.Keeps (q.setPanel f) := h.leaves rfl rfl
theorem setConv (f : Converter → Converter) : p.Keeps (q.setConv f) := h.leaves rfl rfl
theorem raise (c : Cause) : p.Keeps (q.raise c) := h.leaves rfl rfl

end Rest

theorem panel (h : p.Keeps q) (e : PanelOnly q r) : p.Keeps r := h.leaves e.stations (by rw [e])

theorem modify (h : p.Keeps q) (i : StationId) {f : Station → Station}
    (hf : (p.station i).Keeps (f (q.station i))) : p.Keeps (q.modify i f) :=
  ⟨h.enabled, fun j => by
    by_cases hj : i = j
    · subst hj
      rw [modify_station_same]
      exact hf
    · rw [modify_station_other _ _ _ _ hj]
      exact h.station j⟩

section Columns
variable (h : p.Keeps q) (i : StationId)
include h

theorem setWalker {f : Walker → Walker} (state : (f (q.station i).walker).state = (q.station i).walker.state)
    (step : (q.station i).walker.step = none → (f (q.station i).walker).step = none) : p.Keeps (q.setWalker i f) :=
  h.modify i ((h.station i).walker state step)

theorem enters {f : Walker → Walker} (on : p.On i) (state : (f (q.station i).walker).state ≠ .off)
    (steps : (p.station i).Held → (f (q.station i).walker).step ≠ none →
      (f (q.station i).walker).state = .busy ∨ (f (q.station i).walker).state = .waiting) :
    p.Keeps (q.setWalker i f) :=
  h.modify i ((h.station i).enters on state steps)

theorem setRun (f : RunRecord → RunRecord) : p.Keeps (q.setRun i f) := h.setWalker i rfl id

theorem setFx {f : Fixture → Fixture}
    (hf : (p.station i).Held → (q.station i).ps.live = true → (q.station i).fx.Holds →
      (f (q.station i).fx).Holds) : p.Keeps (q.setFx i f) :=
  h.modify i ((h.station i).fixture hf)

theorem setPs {f : Supply → Supply} (hu : (f (q.station i).ps).live = (q.station i).ps.live) :
    p.Keeps (q.setPs i f) :=
  h.modify i ((h.station i).supply hu)

theorem setSt {f : Stimulus → Stimulus}
    (hs : (q.station i).ps.live = false → (q.station i).st = .park → f (q.station i).st = .park) :
    p.Keeps (q.setSt i f) :=
  h.modify i ((h.station i).stimulus hs)

theorem setLc {f : Line → Line} (hl : (q.station i).LineMay (f (q.station i).lc)) : p.Keeps (q.setLc i f) :=
  h.modify i ((h.station i).line hl)

theorem setAq (f : Monitors → Monitors) : p.Keeps (q.setAq i f) := h.modify i ((h.station i).monitors _)

/-- At most the work of the step being worked moves. -/
theorem works {f : Walker → Walker}
    (hf : f (q.station i).walker = (q.station i).walker ∨
      ∃ k, f (q.station i).walker = (q.station i).walker.setWork k) :
    p.Keeps (q.setWalker i f) := by
  obtain e | ⟨k, e⟩ := hf
  · exact h.setWalker i (by rw [e]) (by rw [e]; exact id)
  · exact h.setWalker i (by rw [e, setWork_state]) (by rw [e]; exact setWork_step_none k)

theorem setWork (k : Work) : p.Keeps (q.setWork i k) := h.works i (.inr ⟨k, rfl⟩)

end Columns

/-- An operation carried out once for each thing of a list. -/
theorem foldl {α : Type} {f : Part → α → Part} (h : p.Keeps q) (l : List α)
    (hf : ∀ (q : Part) a, q.Keeps (f q a)) :
    p.Keeps (l.foldl f q) := by
  induction l generalizing q with
  | nil => exact h
  | cons a l ih => exact ih (h.trans (hf q a))

end Part.Keeps

/-- An event carried to the stations in their order. -/
theorem eachStation_keeps {f : StationId → Part → Part} (p : Part) (hf : ∀ i (q : Part), q.Keeps (f i q)) :
    p.Keeps (p.eachStation f) :=
  (Part.Keeps.refl p).foldl stationIds fun q i => hf i q

/-! ### Columns that rest -/

theorem haltChannel_park (c : RampChannel) : Stimulus.park.haltChannel c = .park := by
  cases c with
  | pg k => revert k; decide
  | lv k => revert k; decide

theorem halt_park : Stimulus.park.halt = .park := by decide

theorem boundary_park (k : Fin 4) :
    { Stimulus.park with pg := put Stimulus.park.pg k Stimulus.park.pg[k].boundary } = Stimulus.park := by
  revert k
  decide

theorem ramp_park (c : RampChannel) : Stimulus.park.ramp c = none := by
  cases c with
  | pg k => revert k; decide
  | lv k => revert k; decide

theorem stick_still {l : Line} (h : l.still = true) : l.stick.still = true := by
  have dormant := ((still_iff l).mp h).1
  rw [still_iff] at h ⊢
  simpa only [Line.stick, dormant] using h

theorem still_of_frame {l : Line} {f : Frame} (h : l.frame = some f) : l.still = false := by
  simp [Line.still, h]

theorem still_of_state {l : Line} (h : l.state ≠ .dormant) : l.still = false := by
  simp [Line.still, h]

theorem still_of_schedule {l : Line} {t : Vector Entry 16} (h : l.schedule = some t) : l.still = false := by
  simp [Line.still, h]

theorem cut_live {u : Supply} {dest : SupplyState} (h : dest = .off ∨ dest = .tripped) :
    (u.cut dest).live = false := by
  obtain rfl | rfl := h <;> rfl

theorem supply_halt_live (u : Supply) : u.halt.live = u.live := by
  unfold Supply.halt
  split
  · rename_i h
    simp [Supply.live, h]
  all_goals rfl

theorem supply_rampStep_live {u : Supply} (h : u.state = .ramping) : u.rampStep.live = u.live := by
  simp only [Supply.rampStep]
  split <;> simp [Supply.live, h]

theorem powerOn_live (u : Supply) (n : PowerNumbers) (now : Time) : (u.powerOn n now).live = true := by
  have ends : (u.powerOn n now).state = .on ∨ (u.powerOn n now).state = .ramping :=
    ite_eq_or_eq _ _ _
  obtain h | h := ends <;> simp [Supply.live, h]

theorem Fixture.Holds.halt {f : Fixture} (h : f.Holds) (now : Time) : (f.halt now).Holds := by
  simp only [Fixture.halt, h.state]
  exact h

theorem Fixture.Holds.dropClamp {f : Fixture} (h : f.Holds) (cause : AbandonCause) (now : Time) :
    (f.dropClamp cause now).Holds := by
  simp only [Fixture.dropClamp, h.state]
  exact h

end Sys2Proof.Machine
end

section
/-! The operations of the blocks and of the walker keep the laws of the supply. -/

namespace Sys2Proof.Machine

/-! ### The line -/

section Line
variable (p : Part) (i : StationId)

theorem overrun_keeps (e : Fin 16) : p.Keeps (p.overrun i e) :=
  ((Part.Keeps.refl p).setLc i fun _ still => still).poke32 _ _

theorem joinDue_keeps (e : Fin 16) (key : Time) (awake : (p.station i).Awake) : p.Keeps (p.joinDue i e key) := by
  unfold Part.joinDue
  split
  · exact overrun_keeps p i e
  · exact (Part.Keeps.refl p).setLc i (awake.may _)

theorem fallDue_keeps (e : Fin 16) : p.Keeps (p.fallDue i e) := by
  unfold Part.fallDue
  dsimp only
  split
  · exact .refl p
  · rename_i loaded
    exact (joinDue_keeps p i e _ (.inr (still_of_schedule loaded))).setLc i fun _ still => still

theorem fallDueAll_keeps : p.Keeps (p.fallDueAll i) := by
  refine (Part.Keeps.refl p).foldl _ fun q e => ?_
  split
  · exact fallDue_keeps q i e
  · exact .refl q

/-- Falling due leaves the schedule. -/
theorem fallDue_schedule (e : Fin 16) :
    ((p.fallDue i e).station i).lc.schedule = (p.station i).lc.schedule := by
  have joined : ∀ key, ((p.joinDue i e key).station i).lc.schedule = (p.station i).lc.schedule := fun key => by
    unfold Part.joinDue
    split
    · unfold Part.overrun Part.writeReceptionOverrun
      rw [poke32_station, setLc_station_same]
      rfl
    · rw [setLc_station_same]
  unfold Part.fallDue
  dsimp only
  split
  · rfl
  · rw [setLc_station_same]
    exact joined _

theorem fallDueAll_schedule : ((p.fallDueAll i).station i).lc.schedule = (p.station i).lc.schedule := by
  unfold Part.fallDueAll
  induction entryIds generalizing p with
  | nil => rfl
  | cons e l ih =>
    rw [List.foldl_cons, ih]
    split
    · exact fallDue_schedule p i e
    · rfl

theorem startFrame_keeps : p.Keeps (p.startFrame i) := by
  unfold Part.startFrame
  dsimp only
  split
  · rename_i running _ _ _ _
    have awake : (p.station i).Awake := .inr (still_of_state (by rw [running]; decide))
    exact ((Part.Keeps.refl p).setLc i (awake.may _)).works i (onceStarts_eq _ _)
  · exact .refl p

theorem memory_station (m : Memory) (j : StationId) : ({ p with mem := m } : Part).station j = p.station j := rfl

theorem loadSchedule_keeps (t : Vector Entry 16) (awake : (p.station i).Awake) : p.Keeps (p.loadSchedule i t) := by
  unfold Part.loadSchedule
  refine Part.Keeps.setLc ((((Part.Keeps.refl p).setLc i (awake.may _)).memory _).trans (fallDueAll_keeps _ i)) i
    (Station.Awake.may (.inr (still_of_schedule (t := t) ?_)) _)
  rw [fallDueAll_schedule, memory_station, setLc_station_same]

theorem recordFrame_keeps (f : Frame) (result : FrameResult) : p.Keeps (p.recordFrame i f result) := by
  have time : ∀ q : Part, q.Keeps
      ((if f.fetch then q.writeReceptionData i f.entry else q).writeReceptionTime i f.entry) := fun q => by
    split
    · exact ((Part.Keeps.refl q).memory _).poke32 _ _
    · exact (Part.Keeps.refl q).poke32 _ _
  have figures : ∀ q : Part, q.Keeps ((q.writeReceptionCounts i f.entry).writeReceptionState i f.entry) := fun q =>
    ((Part.Keeps.refl q).poke32 _ _).poke32 _ _
  have sequence : ∀ q : Part, q.Keeps (if f.fetch then q.writeReceptionSequence i f.entry else q) := fun q => by
    split
    · exact (Part.Keeps.refl q).poke32 _ _
    · exact .refl q
  unfold Part.recordFrame
  refine .trans (.trans ?_ (figures _)) (sequence _)
  split
  · refine .trans (.setLc (.refl p) i ?_) (time _)
    exact fun _ still => still
  · refine .setLc (.refl p) i ?_
    exact fun _ still => still

theorem endFrameRecord_keeps (f : Frame) (result : FrameResult) : p.Keeps (p.endFrameRecord i f result) := by
  refine (recordFrame_keeps p i f result).setLc i fun _ still => ?_
  rw [still_iff] at still ⊢
  obtain ⟨state, schedule, due, -, reload, stop⟩ := still
  exact ⟨state, schedule, due, rfl, reload, stop⟩

theorem afterFrame_keeps : p.Keeps (p.afterFrame i) := by
  unfold Part.afterFrame
  dsimp only
  split
  · rename_i stop
    have awake : (p.station i).Awake := .inr (by simp [Line.still, stop])
    exact (Part.Keeps.refl p).setLc i (awake.may _)
  · split
    · rename_i reload
      exact loadSchedule_keeps p i _ (.inr (by simp [Line.still, reload]))
    · exact .refl p

end Line

/-! ### The supply, the acquisition unit and the fixture -/

section Units
variable (p : Part) (i : StationId)

theorem supplyLeave_keeps {dest : SupplyState} (h : dest = .off ∨ dest = .tripped) :
    p.Keeps (p.supplyLeave i dest) :=
  (Part.Keeps.refl p).modify i ((Station.Keeps.refl _).cut (cut_live h))

theorem supplyOff_keeps : p.Keeps (p.supplyOff i) := by
  unfold Part.supplyOff
  split
  · exact .refl p
  · exact supplyLeave_keeps p i (.inl rfl)

theorem supplyCut_keeps : p.Keeps (p.supplyCut i) := by
  unfold Part.supplyCut
  split
  · exact supplyLeave_keeps p i (.inl rfl)
  · exact .refl p

theorem endCheck_keeps (r : RefCheck) : p.Keeps (p.endCheck r) := by
  unfold Part.endCheck
  dsimp only
  split <;> exact (Part.Keeps.refl p).leaves rfl rfl

theorem writeInput_keeps (k : Fin 8) : p.Keeps (p.writeInput i k) := (Part.Keeps.refl p).leaves rfl rfl

theorem writeInputs_keeps : p.Keeps (p.writeInputs i) := by
  unfold Part.writeInputs
  refine .setAq (.foldl (.refl p) _ fun q k => ?_) i _
  split
  · exact writeInput_keeps q i k
  · exact .refl q

theorem updateLamp_keeps (column : Fin 8) (reading : Byte) : p.Keeps (p.updateLamp i column reading) := by
  unfold Part.updateLamp
  dsimp only
  split
  · split
    · exact .refl p
    · split
      · exact .refl p
      · exact (((Part.Keeps.refl p).setAq i _).poke32 _ _).poke32 _ _
  · exact .refl p

theorem startPin_keeps (c : Calibration) (pin : Nat) : p.Keeps (p.startPin i c pin) :=
  ((Part.Keeps.refl p).setFx i fun _ _ holds => ⟨holds.state, holds.nest, holds.guard⟩).setConv _

theorem clearContacts_keeps : p.Keeps (p.clearContacts i) := (Part.Keeps.refl p).memory _

/-- The source goes off and the matrix opens, beside state and levels. -/
theorem contactOff_keeps : p.Keeps (p.setFx i Fixture.contactOff) :=
  (Part.Keeps.refl p).setFx i fun _ _ holds => ⟨holds.state, holds.nest, holds.guard⟩

end Units

/-! ### The attempt loop -/

section Attempts
variable (p : Part) (i : StationId)

theorem traceAppend_keeps (v : Int) : p.Keeps (p.traceAppend i v) := by
  unfold Part.traceAppend
  dsimp only
  split
  · exact (((Part.Keeps.refl p).poke32 _ _).setWalker i rfl id).mark _ _
  · exact ((Part.Keeps.refl p).setWalker i rfl id).mark _ _

theorem settleLoop_keeps (w : MeasureWork) (traced : Bool) (a : Attempt) :
    p.Keeps (p.settleLoop i w traced a).1 := by
  unfold Part.settleLoop
  cases traced
  · exact (Part.Keeps.refl p).setWork i _
  · exact (traceAppend_keeps p i _).setWork i _

theorem beginGathering_keeps (w : MeasureWork) : p.Keeps (p.beginGathering i w) := by
  have worked := (Part.Keeps.refl p).setWork i
  unfold Part.beginGathering
  split
  · exact (worked _).setConv _
  · exact (worked _).setAq i _
  · exact (worked _).setAq i _
  · exact (worked _).setAq i _
  all_goals exact worked _

theorem startAttempt_keeps (w : MeasureWork) (traced : Bool) : p.Keeps (p.startAttempt i w traced).1 := by
  unfold Part.startAttempt
  dsimp only
  split
  · exact settleLoop_keeps p i _ _ _
  · exact beginGathering_keeps p i _

theorem arrive_keeps (w : MeasureWork) (traced : Bool) (a : Attempt) : p.Keeps (p.arrive i w traced a).1 := by
  have settled := settleLoop_keeps p i w traced a
  unfold Part.arrive
  split <;> rename_i e <;> rw [e] at settled
  · exact settled
  · split
    · split
      · exact settled.trans (startAttempt_keeps _ i _ _)
      · exact settled
    · exact settled

end Attempts

/-! ### The start of a step -/

section Starts
variable (p : Part) (i : StationId)

theorem writeResult_keeps (t : Step) (r : Result) : p.Keeps (p.writeResult i t r) :=
  (Part.Keeps.refl p).leaves rfl rfl

theorem writeOpening_keeps (c : CellId) (run seq : BitVec 16) : p.Keeps (p.writeOpening i c run seq) :=
  (Part.Keeps.refl p).leaves rfl rfl

theorem startBegin_keeps (t : Step) : p.Keeps (p.startBegin i t).1 := by
  have kept := Part.Keeps.refl p
  unfold Part.startBegin
  dsimp only
  split
  · exact kept
  · repeat' split
    all_goals dsimp only
    · exact kept
    · exact kept
    · exact kept
    · exact (((kept.passing i _).setRun i _).poke16 _ _).poke16 _ _

theorem closeRun_keeps : p.Keeps (p.closeRun i) := by
  unfold Part.closeRun
  split
  · exact ((Part.Keeps.refl p).setRun i _).raise _
  · exact .refl p

/-- A release is taken under a dead supply alone. -/
theorem beginRelease_keeps (dead : (p.station i).ps.live = false) : p.Keeps (p.beginRelease i).1 := by
  unfold Part.beginRelease
  split
  all_goals dsimp only
  · exact .refl p
  · exact (Part.Keeps.refl p).setFx i fun _ live => Bool.noConfusion (dead.symm.trans live)
  · exact .refl p

theorem startEnd_keeps (t : Step) : p.Keeps (p.startEnd i t).1 := by
  have ended : ∀ run c, p.Keeps ((p.setWalker i fun w =>
      { w with run := run, step := w.step.map fun v => { v with counted := false } }).raise c) := fun run c =>
    ((Part.Keeps.refl p).setWalker i rfl fun none => congrArg (Option.map _) none).raise c
  have supply : ∀ f c, (((p.setWalker i f).raise c).station i).ps = (p.station i).ps := fun f c => by
    rw [raise_station, setWalker_station_same]
  unfold Part.startEnd
  dsimp only
  split
  · split
    · split
      · rename_i off
        have released : ∀ run c, p.Keeps (((p.setWalker i fun w =>
            { w with run := run, step := w.step.map fun v => { v with counted := false } }).raise c).beginRelease
              i).1 := fun run c =>
          (ended run c).trans (beginRelease_keeps _ i (by rw [supply, Supply.live, off]))
        split <;> rename_i e <;> have kept := congrArg (fun o => p.Keeps o.1) e
        · exact kept.mp (released _ _)
        · exact (kept.mp (released _ _)).setWork i _
      · exact ended _ _
    · exact ended _ _
  · exact .refl p

theorem startWait_keeps (t : Step) : p.Keeps (p.startWait i t).1 := by
  unfold Part.startWait
  split
  · exact .refl p
  · exact (Part.Keeps.refl p).setWork i _

theorem startRelease_keeps (t : Step) : p.Keeps (p.startRelease i t).1 := by
  unfold Part.startRelease
  split
  · rename_i off
    have released := beginRelease_keeps p i (by rw [Supply.live, off])
    split <;> rename_i e <;> rw [e] at released
    · exact released
    · exact released.setWork i _
  · exact .refl p

theorem startContact_keeps : p.Keeps (p.startContact i).1 := by
  have kept := Part.Keeps.refl p
  unfold Part.startContact
  dsimp only
  repeat' split
  all_goals dsimp only
  · exact kept
  · exact kept
  · exact kept
  · exact kept
  · exact ((clearContacts_keeps p i).setWork i _).trans (startPin_keeps _ i _ _)

theorem workSet_keeps (t : Step) (atOnce : Bool) (w : SetWork) : p.Keeps (p.workSet i t atOnce w).1 := by
  unfold Part.workSet
  split
  · exact .refl p
  · exact (Part.Keeps.refl p).setWork i _

/-- A SET moves the stimulus under a live supply alone (R89). -/
theorem startSet_keeps (t : Step) : p.Keeps (p.startSet i t).1 := by
  have kept := Part.Keeps.refl p
  unfold Part.startSet
  dsimp only
  split
  · exact kept
  · split
    · exact kept
    · rename_i live
      have set : ∀ f, p.Keeps (p.setSt i f) := fun f => kept.setSt i fun dead => absurd dead live
      have marked : ∀ f g, p.Keeps ((p.passing i f).setSt i g) := fun f g =>
        (kept.passing i f).setSt i fun dead => absurd dead live
      split
      · exact (marked _ _).trans (workSet_keeps _ i _ _ _)
      · exact (marked _ _).trans (workSet_keeps _ i _ _ _)
      · dsimp only
        exact set _
      · dsimp only
        exact set _

/-- A SEND moves the line under a live supply alone (R124). -/
theorem startSend_keeps (t : Step) : p.Keeps (p.startSend i t).1 := by
  have kept := Part.Keeps.refl p
  unfold Part.startSend
  split
  · exact kept
  · split
    · rename_i live
      have awake : (p.station i).Awake := .inl live
      split
      · unfold Part.sendStart
        dsimp only
        repeat' split
        all_goals dsimp only
        · exact kept
        · exact (kept.setLc i (awake.may _)).setWork i _
        · exact loadSchedule_keeps p i _ awake
      · unfold Part.sendStop
        dsimp only
        repeat' split
        all_goals dsimp only
        · exact kept
        · exact (kept.setLc i (awake.may _)).setWork i _
        · exact kept.setLc i (awake.may _)
      · unfold Part.sendOnce
        dsimp only
        repeat' split
        all_goals dsimp only
        · exact kept
        · refine ((kept.setWork i _).trans (joinDue_keeps _ i _ _ (.inl ?_))).trans (startFrame_keeps _ i)
          rw [Part.setWork, setWalker_station_same]
          exact live
        · exact kept
    · exact kept

theorem admitMeasure_keeps (t : Step) (q : MeasureParams) : p.Keeps (p.admitMeasure i t q).1 := by
  have kept := Part.Keeps.refl p
  unfold Part.admitMeasure
  split
  · dsimp only
    repeat' split
    · exact kept.setWork i _
    · exact kept
    · exact kept
    · exact startAttempt_keeps p i _ _
  all_goals exact startAttempt_keeps p i _ _

theorem startMeasure_keeps (t : Step) : p.Keeps (p.startMeasure i t).1 := by
  unfold Part.startMeasure
  split
  · exact .refl p
  · exact admitMeasure_keeps p i t _

theorem startListen_keeps (t : Step) : p.Keeps (p.startListen i t).1 := by
  have kept := Part.Keeps.refl p
  unfold Part.startListen
  dsimp only
  repeat' split
  all_goals dsimp only
  · exact kept
  · exact kept.setWork i _
  · exact kept

end Starts

end Sys2Proof.Machine
end

section
/-! The walker keeps the laws of the supply: the start of a step, its end, abandonment, faults, halts, CLEAR, sweeps and
re-runs. -/

namespace Sys2Proof.Machine

/-! ### The states of a station -/

/-- No step is in flight, where the column was lawful before. -/
def Part.Rests (p q : Part) (i : StationId) : Prop := (p.station i).Held → (q.station i).walker.step = none

theorem Station.Held.rests {x : Station} (h : x.Held) (busy : x.walker.state ≠ .busy)
    (waiting : x.walker.state ≠ .waiting) : x.walker.step = none :=
  by_contra fun moving => (h.steps moving).elim busy waiting

section States
variable {p q : Part} {i : StationId} (h : p.Keeps q) (on : p.On i)
include h on

theorem Part.Keeps.beginWait (t : Step) : p.Keeps (q.beginWait i t) := by
  unfold Part.beginWait Part.setStationState
  exact (h.setCellState i t.cell cellWaiting).enters i on (by nofun) fun _ _ => .inr rfl

theorem Part.Keeps.endWait (t : Step) : p.Keeps (q.endWait i t) := by
  unfold Part.endWait Part.setStationState
  exact (h.setCellState i t.cell cellActive).enters i on (by nofun) fun _ _ => .inl rfl

theorem Part.Keeps.takeStep : p.Keeps (q.takeStep i).1 := by
  unfold Part.takeStep
  dsimp only
  exact ((h.setCellState _ _ _).trans (writeOpening_keeps _ i _ _ _)).enters i on (by nofun) fun _ _ => .inl rfl

theorem Part.Keeps.enterStopped (rests : p.Rests q i) (r : Reason) : p.Keeps (q.enterStopped i r) :=
  (h.enters i on (by nofun) fun held moving => absurd (rests held) moving).raise _

theorem Part.Keeps.becomeIdle (rests : p.Rests q i) : p.Keeps (q.becomeIdle i) :=
  h.enters i on (by nofun) fun held moving => absurd (rests held) moving

theorem Part.Keeps.powered {f : Supply → Supply} (live : (f (q.station i).ps).live = true)
    (holds : (q.station i).fx.Holds) : p.Keeps (q.setPs i f) :=
  h.modify i ((h.station i).powered on live holds)

end States

/-! ### The start of a step -/

section Starts
variable {p q : Part} {i : StationId} (h : p.Keeps q) (on : p.On i) (t : Step)
include h on

theorem Part.Keeps.startClamp : p.Keeps (q.startClamp i t).1 := by
  unfold Part.startClamp
  dsimp only
  split
  · exact h
  · split
    · exact h
    · rename_i opened
      have clamps : ∀ (k : Work) (f : Fixture → Fixture), p.Keeps ((q.setWork i k).setFx i f) := fun k f =>
        (h.setWork i k).setFx i fun _ _ holds => by
          rw [Part.setWork, setWalker_station_same] at holds
          have clamped : (q.station i).fx.state = some .clamped := holds.state
          rw [not_not.mp opened] at clamped
          cases clamped
      repeat' split
      all_goals dsimp only
      · exact h
      · exact h
      · exact h
      · exact clamps _ _
      · exact (clamps _ _).beginWait on t

/-- A POWER ON makes the supply live over a CLAMPED fixture with a part and a closed guard (R75). -/
theorem Part.Keeps.startPower : p.Keeps (q.startPower i t).1 := by
  unfold Part.startPower
  dsimp only
  split
  · exact h
  · exact h.trans (supplyOff_keeps q i)
  · rename_i n _
    repeat' split
    all_goals dsimp only
    · exact h
    · exact h
    · exact h
    all_goals
      rename_i clamped nest guard _
      have holds : (q.station i).fx.Holds :=
        ⟨not_not.mp clamped, Bool.eq_true_of_not_eq_false nest, Bool.eq_true_of_not_eq_false guard⟩
      have live := powerOn_live (q.station i).ps n q.rackTime
      have arrives : p.Keeps
          ((q.setPs i fun _ => (q.station i).ps.powerOn n q.rackTime).setLc i Line.supplyArrives) := by
        refine (h.powered on live holds).setLc i (Station.Awake.may (.inl ?_) _)
        rw [setPs_station_same]
        exact live
    · exact arrives
    · exact arrives.setWork i _

theorem Part.Keeps.startPrompt : p.Keeps (q.startPrompt i t).1 := by
  unfold Part.startPrompt
  split
  · exact h
  · exact ((h.setWork i _).panel (placeEntry_only _ _)).beginWait on t

theorem Part.Keeps.startStep : p.Keeps (q.startStep i t).1 := by
  unfold Part.startStep
  split
  · exact h
  · exact h.trans (startBegin_keeps q i t)
  · exact h.trans (startEnd_keeps q i t)
  · exact h.trans (startWait_keeps q i t)
  · exact h.startClamp on t
  · exact h.trans (startRelease_keeps q i t)
  · exact h.trans (startContact_keeps q i)
  · exact h.startPower on t
  · exact h.trans (startSet_keeps q i t)
  · exact h.trans (startSend_keeps q i t)
  · exact h.trans (startMeasure_keeps q i t)
  · exact h.trans (startListen_keeps q i t)
  · exact h.startPrompt on t

end Starts

/-! ### The ends of a step -/

section Ends
variable (p : Part) (i : StationId)

theorem notify_keeps (t : Step) : p.Keeps (p.notify i t) := by
  unfold Part.notify
  split
  · exact (Part.Keeps.refl p).raise _
  · exact .refl p

theorem completeMain_keeps (t : Step) (r : Result) : p.Keeps (p.completeMain i t r) :=
  (((writeResult_keeps p i t r).setCellState _ _ _).setWalker i rfl fun _ => rfl).trans (notify_keeps _ i t)

/-- A completion leaves no step in flight. -/
theorem completeMain_step (t : Step) (r : Result) : ((p.completeMain i t r).station i).walker.step = none := by
  have notified : ∀ q : Part, (q.notify i t).station i = q.station i := fun q => by
    unfold Part.notify
    split
    · exact raise_station _ _ _
    · rfl
  rw [Part.completeMain, notified, setWalker_station_same]
  rfl

variable {p i} in
theorem Part.Keeps.examine {q : Part} (n : Nat) (h : p.Keeps q) (on : p.On i) (rests : p.Rests q i) :
    p.Keeps (Part.examine n q i) := by
  induction n generalizing q with
  | zero => exact h.becomeIdle on rests
  | succ n ih =>
    have taken := (h.takeStep on).startStep on (q.takeStep i).2
    unfold Part.examine
    dsimp only
    split
    · exact h.enterStopped on rests _
    · split
      · split <;> rename_i e <;> rw [e] at taken
        · exact taken
        · have completed := fun t r => taken.trans (completeMain_keeps _ i t r)
          have rested : ∀ (q' : Part) t r, p.Rests (q'.completeMain i t r) i := fun q' t r _ =>
            completeMain_step q' i t r
          split
          · exact (completed _ _).enterStopped on (rested _ _ _) _
          · exact ih (completed _ _) (rested _ _ _)
      · exact h.becomeIdle on rests

theorem completeStep_keeps (r : Result) : p.Keeps (p.completeStep i r) := by
  unfold Part.completeStep
  split
  · exact .refl p
  · rename_i t working
    have on : p.On i := .of_step working
    have completed := completeMain_keeps p i t r
    have rested : p.Rests (p.completeMain i t r) i := fun _ => completeMain_step p i t r
    dsimp only
    split
    · exact completed.enterStopped on rested _
    · exact completed.examine 33 on rested

theorem rerunEnd_keeps (t : Step) (r : Result) : p.Keeps (p.rerunEnd i t r) :=
  ((((writeResult_keeps p i t r).setCellState _ _ _).trans (notify_keeps _ i t)).setWalker i rfl id).panel
    (changePrompt_only _ _ _)

theorem finish_keeps (r : Result) : p.Keeps (p.finish i r) := by
  unfold Part.finish
  split
  · exact rerunEnd_keeps p i _ r
  · exact completeStep_keeps p i r

variable {p i} in
/-- The outcome of an operation is concluded. -/
theorem Part.Keeps.conclude {o : Part × Option Result} (h : p.Keeps o.1) : p.Keeps (Part.conclude i o) := by
  obtain ⟨q, _ | r⟩ := o
  · exact h
  · exact h.trans (finish_keeps q i r)

end Ends

/-! ### Abandonment -/

section Abandonment
variable (p : Part) (i : StationId) (cause : AbandonCause)

theorem dropWork_keeps (k : Work) : p.Keeps (p.dropWork i k cause).1 := by
  have kept := Part.Keeps.refl p
  unfold Part.dropWork
  cases k with dsimp only
  | clamp => exact kept.setFx i fun _ _ holds => holds.dropClamp _ _
  | contact => exact (contactOff_keeps p i).setConv _
  | set =>
    exact kept.setSt i fun _ park => by
      rw [park]
      exact haltChannel_park _
  | measure => exact (kept.setConv _).setAq i _
  | prompt => exact kept.panel (withdrawPrompt_only p i _)
  | _ => exact kept

/-- The blocks drop a step and leave the supply as it stands. -/
theorem dropWork_ps (k : Work) : ((p.dropWork i k cause).1.station i).ps = (p.station i).ps := by
  unfold Part.dropWork
  cases k with dsimp only
  | clamp => rw [setFx_station_same]
  | contact => rw [setConv_station, setFx_station_same]
  | set => rw [setSt_station_same]
  | measure => rw [Part.dropAcquisition, setAq_station_same, setConv_station]
  | prompt => rw [(withdrawPrompt_only p i _).station]

theorem abandonCell_keeps (t : Step) (r : Result) : p.Keeps (p.abandonCell i t r) :=
  (writeResult_keeps p i t r).setCellState _ _ _

theorem abandonCell_station (t : Step) (r : Result) (j : StationId) :
    (p.abandonCell i t r).station j = p.station j := rfl

theorem abandonRerun_keeps : p.Keeps (p.abandonRerun i cause) := by
  unfold Part.abandonRerun
  split
  · exact .refl p
  · exact ((dropWork_keeps p i cause _).trans (abandonCell_keeps _ i _ _)).setWalker i rfl id

theorem abandonRerun_ps : ((p.abandonRerun i cause).station i).ps = (p.station i).ps := by
  unfold Part.abandonRerun
  split
  · rfl
  · rw [setWalker_station_same, abandonCell_station]
    exact dropWork_ps p i cause _

theorem abandonStep_keeps : p.Keeps (p.abandonStep i cause) := by
  have rerun := abandonRerun_keeps p i cause
  unfold Part.abandonStep
  dsimp only
  split
  · exact rerun
  · exact (rerun.trans ((dropWork_keeps _ i cause _).trans (abandonCell_keeps _ i _ _))).setWalker i rfl fun _ => rfl

/-- An abandonment leaves the supply as it stands, and no step in flight. -/
theorem abandonStep_leaves : ((p.abandonStep i cause).station i).ps = (p.station i).ps ∧
    ((p.abandonStep i cause).station i).walker.step = none := by
  have rerun := abandonRerun_ps p i cause
  unfold Part.abandonStep
  dsimp only
  split
  · exact ⟨rerun, by assumption⟩
  · rw [setWalker_station_same, abandonCell_station]
    exact ⟨(dropWork_ps _ i cause _).trans rerun, rfl⟩

end Abandonment

/-! ### Faults, halts, CLEAR, sweeps and re-runs -/

section Walker
variable (p : Part) (i : StationId)

theorem faultReport_keeps (r : FaultReason) : p.Keeps (p.faultReport i r) := by
  have dropped := abandonStep_keeps p i (.fault r)
  have rests : p.Rests (p.abandonStep i (.fault r)) i := fun _ => (abandonStep_leaves p i _).2
  have faulted : (p.station i).walker.state ≠ .off → p.Keeps
      ((((p.abandonStep i (.fault r)).setWalker i fun w =>
        { w with state := .faulted, holdReason := r.reason }).raise (.fault i)).placeEntry (noticeEntry i r)) :=
    fun on =>
      ((dropped.enters i (.of_state on) (by nofun) fun held moving => absurd (rests held) moving).raise _).panel
        (placeEntry_only _ _)
  unfold Part.faultReport
  split
  · exact .refl p
  · exact (Part.Keeps.refl p).raise _
  all_goals
    rename_i state
    exact faulted (by rw [state]; nofun)

/-- A fault report leaves the supply as it stands. -/
theorem faultReport_ps (r : FaultReason) : ((p.faultReport i r).station i).ps = (p.station i).ps := by
  unfold Part.faultReport
  split
  · rfl
  · rfl
  all_goals
    rw [(placeEntry_only _ _).station, raise_station, setWalker_station_same]
    exact (abandonStep_leaves p i _).1

theorem haltNotice_keeps : p.Keeps (p.haltNotice i) := by
  refine (Part.Keeps.refl p).modify i (f := fun x =>
    { x with st := x.st.halt, ps := x.ps.halt, fx := x.fx.halt p.rackTime }) ?_
  have stopped := (Station.Keeps.refl (p.station i)).stimulus (s := (p.station i).st.halt) fun _ park => by
    rw [park]
    exact halt_park
  exact (stopped.supply (supply_halt_live _)).fixture fun _ _ holds => holds.halt _

theorem halt_keeps : p.Keeps (p.halt i) := by
  have dropped := abandonStep_keeps p i .halted
  have stopped : (p.station i).walker.state ≠ .off → p.Keeps
      (((p.abandonStep i .halted).setWalker i fun w =>
        { w with state := .stopped, holdReason := .halted }).haltNotice i) := fun on =>
    (dropped.enters i (.of_state on) (by nofun) fun _ moving =>
      absurd (abandonStep_leaves p i _).2 moving).trans (haltNotice_keeps _ i)
  unfold Part.halt
  split
  · exact .refl p
  · exact .refl p
  · exact .refl p
  all_goals
    rename_i state
    exact stopped (by rw [state]; nofun)

theorem supplyOff_walker : ((p.supplyOff i).station i).walker = (p.station i).walker := by
  unfold Part.supplyOff
  split
  · rfl
  · rw [Part.supplyLeave, modify_station_same]

/-- The closing of a run moves the run record alone. -/
theorem closeRun_station : ∃ u, (p.closeRun i).station i =
    { p.station i with walker := { (p.station i).walker with run := u } } := by
  unfold Part.closeRun
  split
  · rw [raise_station, Part.setRun, setWalker_station_same]
    exact ⟨_, rfl⟩
  · exact ⟨_, rfl⟩

theorem closeRun_step : ((p.closeRun i).station i).walker.step = (p.station i).walker.step := by
  obtain ⟨u, closed⟩ := closeRun_station p i
  rw [closed]

theorem closeRun_ps : ((p.closeRun i).station i).ps = (p.station i).ps := by
  obtain ⟨u, closed⟩ := closeRun_station p i
  rw [closed]

/-- A CLEAR reaches a STOPPED or FAULTED station, which has no step in flight (R36). -/
theorem clearStation_keeps (faulted : Bool)
    (state : (p.station i).walker.state = .stopped ∨ (p.station i).walker.state = .faulted) :
    p.Keeps (p.clearStation i faulted) := by
  have on : p.On i := .of_state (by obtain e | e := state <;> rw [e] <;> nofun)
  have closed : p.Rests ((p.supplyOff i).closeRun i) i := fun held => by
    rw [closeRun_step, supplyOff_walker]
    exact held.rests (by obtain e | e := state <;> rw [e] <;> nofun)
      (by obtain e | e := state <;> rw [e] <;> nofun)
  have idle := ((supplyOff_keeps p i).trans (closeRun_keeps _ i)).becomeIdle on closed
  have rests : p.Rests (((p.supplyOff i).closeRun i).becomeIdle i) i := fun held => by
    rw [Part.becomeIdle, setWalker_station_same]
    exact closed held
  have chained : ∀ q : Part, p.Keeps q → p.Rests q i → p.Keeps (q.chain i) := fun q kept rests =>
    kept.examine 33 on rests
  cases faulted with
  | false => exact chained _ idle rests
  | true =>
    have notice := removeNotice_only (((p.supplyOff i).closeRun i).becomeIdle i) i
    exact chained _ (idle.panel notice) fun held =>
      (congrArg (fun x : Station => x.walker.step) (notice.station i)).trans (rests held)

theorem clear_keeps : p.Keeps (p.clear i) := by
  unfold Part.clear
  split
  · exact .refl p
  · exact .refl p
  · exact .refl p
  · exact .refl p
  · rename_i stopped
    exact clearStation_keeps p i _ (.inl stopped)
  · rename_i faulted
    split
    · exact clearStation_keeps p i _ (.inr faulted)
    · exact .refl p

theorem sweep_keeps : p.Keeps p.sweep := by
  refine eachStation_keeps p fun j q => ?_
  split
  · rename_i idle
    exact (Part.Keeps.refl q).examine 33 (.of_state (by rw [idle]; nofun)) fun held =>
      held.rests (by rw [idle]; nofun) (by rw [idle]; nofun)
  · exact .refl q

/-- A re-run takes a SET, a SEND or a WAIT (R186), none of which asks anything of the station's state. -/
theorem startStep_rerun_keeps (t : Step)
    (kind : Kind.ofCode t.kind = some .set ∨ Kind.ofCode t.kind = some .send ∨ Kind.ofCode t.kind = some .wait) :
    p.Keeps (p.startStep i t).1 := by
  unfold Part.startStep
  obtain e | e | e := kind <;> rw [e]
  · exact startSet_keeps p i t
  · exact startSend_keeps p i t
  · exact startWait_keeps p i t

theorem repeatAllowed_kind {p : Part} {e : PanelEntry} (h : p.repeatAllowed e = true) (counted : Bool) :
    let kind := Kind.ofCode (p.copyStep e.station e.target counted).kind
    kind = some .set ∨ kind = some .send ∨ kind = some .wait := by
  simp only [Part.repeatAllowed, Bool.and_eq_true, Bool.or_eq_true, decide_eq_true_eq] at h
  obtain ⟨⟨⟨-, kind⟩, -⟩, -⟩ := h
  exact or_assoc.mp kind

theorem pressRepeat_keeps (e : PanelEntry) : p.Keeps (p.pressRepeat e) := by
  unfold Part.pressRepeat
  split
  · rename_i allowed
    have taken := ((Part.Keeps.refl p).panel
      (changePrompt_only p e.station fun v => { v.kept with rerun := true })).setCellState e.station e.target cellActive
    unfold Part.rerunTake
    exact Part.Keeps.conclude (((taken.trans (writeOpening_keeps _ _ _ _ _)).setWalker e.station rfl id).trans
      (startStep_rerun_keeps _ _ _ (repeatAllowed_kind allowed false)))
  · exact (Part.Keeps.refl p).panel (beep_only p _)

end Walker

end Sys2Proof.Machine
end

section
/-! The events of the blocks, of the panel and of the host keep the laws of the supply. -/

namespace Sys2Proof.Machine

/-! ### Events of the acquisition unit -/

section Acquisition
variable (p : Part) (i : StationId)

theorem datum_keeps (g : Gathering) (refFlag : Bool) (judge : MeasureParams → Attempt) :
    p.Keeps (p.datum i g refFlag judge) := by
  unfold Part.datum
  split
  · split
    · exact (arrive_keeps p i _ _ _).conclude
    · exact .refl p
  · exact .refl p

theorem requestReturn_keeps (q : Request) : p.Keeps (p.requestReturn i q) := by
  unfold Part.requestReturn
  split
  · unfold Part.contactReturn
    split
    · dsimp only
      have written : ∀ x v k, p.Keeps ((p.writeContact i x v).setWork i k) := fun x v k =>
        .setWork (.poke32 (.refl p) _ _) i k
      split
      · exact (written _ _ _).trans (startPin_keeps _ i _ _)
      · exact ((written _ _ _).trans (contactOff_keeps _ i)).trans (finish_keeps _ i _)
    · exact .refl p
  · exact datum_keeps p i _ _ _

theorem takeCode_keeps (x : SampleInput) (code : Nat) : p.Keeps (p.takeCode x code) := by
  have placed : ∀ f, p.Keeps (p.setConv f) := (Part.Keeps.refl p).setConv
  unfold Part.takeCode
  split
  · split
    · exact .refl p
    · dsimp only
      split
      · exact placed _
      · exact endCheck_keeps p _
  · split
    · exact .refl p
    · dsimp only
      split
      · exact placed _
      · exact (placed _).trans (requestReturn_keeps _ _ _)

theorem sampleEnds_keeps (microvolts : Int) : p.Keeps (p.sampleEnds microvolts) := by
  unfold Part.sampleEnds
  split
  · exact .refl p
  · split
    · exact (takeCode_keeps p _ _).setConv _
    · exact (Part.Keeps.refl p).setConv _

theorem meterCloses_keeps (n : Fin 2) (closed : Option (Nat × Nat × Nat)) : p.Keeps (p.meterCloses i n closed) := by
  unfold Part.meterCloses
  split
  · exact .refl p
  · exact ((Part.Keeps.refl p).mark _ _).trans (datum_keeps _ i _ _ _)

theorem inputEdge_keeps (k : Fin 8) (tick : Tick) : p.Keeps (p.inputEdge i k tick) := by
  unfold Part.inputEdge
  split
  · exact .refl p
  · dsimp only
    exact .foldl (.setAq (.refl p) i _) _ fun q m => meterCloses_keeps q i m _

theorem inputReject_keeps (k : Fin 8) : p.Keeps (p.inputReject i k) := by
  unfold Part.inputReject
  split
  · exact .refl p
  · exact (Part.Keeps.refl p).setAq i _

theorem windowEnds_keeps : p.Keeps (p.windowEnds i) := by
  unfold Part.windowEnds
  split
  · split
    · exact ((Part.Keeps.refl p).setAq i _).trans (datum_keeps _ i _ _ _)
    · exact .refl p
  · exact .refl p

theorem meterExpires_keeps (n : Fin 2) : p.Keeps (p.meterExpires i n) := by
  unfold Part.meterExpires
  dsimp only
  split
  · exact (((Part.Keeps.refl p).setAq i _).mark _ _).trans (datum_keeps _ i _ _ _)
  · exact .refl p

theorem identityRead_keeps (identity : Byte) : p.Keeps (p.identityRead i identity) := by
  unfold Part.identityRead
  split
  · have told := (Part.Keeps.refl p).setAq i
    dsimp only
    split
    · split
      · exact (told _).trans (admitMeasure_keeps _ i _ _).conclude
      · exact told _
    · exact told _
  · exact .refl p

theorem rowUpdate_keeps (readings : Vector Byte 8) : p.Keeps (p.rowUpdate i readings) := by
  unfold Part.rowUpdate
  split
  · exact .setAq (.foldl (.refl p) _ fun q c => updateLamp_keeps q i c _) i _
  · exact .refl p

end Acquisition

/-! ### Events of the fixture controllers -/

section Fixtures
variable (p : Part) (i : StationId)

/-- A fixture that is not CLAMPED may move as it will: no supply is live over it. -/
theorem setFx_keeps {p : Part} {i : StationId} {st : FixtureState} (f : Fixture → Fixture)
    (state : (p.station i).fx.state = some st) (loose : st ≠ .clamped) : p.Keeps (p.setFx i f) :=
  (Part.Keeps.refl p).setFx i fun _ _ holds =>
    absurd (Option.some.inj (state.symm.trans holds.state)) loose

theorem failClamp_keeps (r : Reason) (value aux : Nat) : p.Keeps (p.failClamp i r value aux) := by
  unfold Part.failClamp
  split
  · exact finish_keeps p i _
  · exact .refl p

variable {p i} in
theorem reverse_keeps (closing : (p.station i).fx.state = some .closing) (r : Reason) :
    p.Keeps (p.reverse i r) :=
  (setFx_keeps _ closing (by decide)).trans (failClamp_keeps _ i _ _ _)

variable {p i} in
theorem closedArrival_keeps (closing : (p.station i).fx.state = some .closing) :
    p.Keeps (p.closedArrival i) := by
  have entered : ∀ record, p.Keeps (p.enterClamped i record) := fun record => by
    have clamped : p.Keeps ((p.setFx i Fixture.toClamped).countCycle record) :=
      .poke32 (setFx_keeps _ closing (by decide)) _ _
    unfold Part.enterClamped
    dsimp only
    split
    · exact (clamped.setRun i _).setWork i _
    · exact clamped.setWork i _
  unfold Part.closedArrival
  dsimp only
  split
  · split
    · exact entered _
    · exact (entered _).trans (finish_keeps _ i _)
  · exact (entered _).trans (faultReport_keeps _ i _)

variable {p i} in
theorem openedArrival_keeps {st : FixtureState} (state : (p.station i).fx.state = some st) (loose : st ≠ .clamped) :
    p.Keeps (p.openedArrival i) := by
  have opened := setFx_keeps Fixture.toOpen state loose
  unfold Part.openedArrival
  dsimp only
  split
  · exact opened
  · split
    · exact opened.trans (finish_keeps _ i _)
    · exact opened.trans (finish_keeps _ i _)
    · exact opened

theorem guardCut_keeps : p.Keeps (p.guardCut i) := by
  unfold Part.guardCut
  split
  · exact (supplyLeave_keeps p i (.inl rfl)).trans (faultReport_keeps _ i _)
  · exact .refl p

theorem nestLoss_keeps : p.Keeps (p.nestLoss i) := (supplyCut_keeps p i).trans (faultReport_keeps _ i _)

variable {p i} in
theorem armingButton_keeps (arming : (p.station i).fx.state = some .arming) (on : p.On i) (held : Bool) :
    p.Keeps (p.armingButton i held) := by
  have judged : p.Keeps (p.setFx i fun _ => ((p.station i).fx.judgeHands held p.rackTime p.config.twoHandWindow).1) :=
    setFx_keeps _ arming (by decide)
  have closing : ∀ (g : Fixture) (f : Fixture → Fixture), g.state = some .arming →
      p.Keeps ((p.setFx i fun _ => g).setFx i f) := fun g f state =>
    (setFx_keeps _ arming (by decide)).trans
      (setFx_keeps (st := .arming) f (by rw [setFx_station_same]; exact state) (by decide))
  have state : ((p.station i).fx.judgeHands held p.rackTime p.config.twoHandWindow).1.state = some .arming := by
    rw [← arming]
    unfold Fixture.judgeHands
    dsimp only
    repeat' split
    all_goals rfl
  unfold Part.armingButton
  dsimp only
  split
  · unfold Part.handsAccepted
    dsimp only
    split
    · exact closing _ _ state
    · split
      · exact (closing _ _ state).endWait on _
      · exact closing _ _ state
  · exact judged

variable {p i} in
theorem fixtureOutcome_keeps (on : p.On i) (input : FixtureInput) (level : Bool) :
    p.Keeps (p.fixtureOutcome i input level) := by
  have twoHand : (p.station i).fx.state = some .closing → ∀ b : Bool,
      p.Keeps (if b then p.reverse i .operatorRelease else p) := fun closing b => by
    cases b
    · exact .refl p
    · exact reverse_keeps closing _
  unfold Part.fixtureOutcome
  dsimp only
  split <;> rename_i state
  · exact armingButton_keeps state on _
  · exact armingButton_keeps state on _
  · exact (setFx_keeps _ state (by decide)).trans (failClamp_keeps _ i _ _ _)
  · exact closedArrival_keeps state
  · exact twoHand state _
  · exact twoHand state _
  · exact reverse_keeps state _
  · exact guardCut_keeps p i
  · exact nestLoss_keeps p i
  · exact openedArrival_keeps state (by decide)
  · exact openedArrival_keeps state (by decide)
  · exact .refl p

/-- A change of the fixture and a cut of the supply at once: what is live no more needs no held unit. -/
theorem setFx_supplyLeave_keeps (f : Fixture → Fixture) : p.Keeps ((p.setFx i f).supplyLeave i .off) := by
  refine ⟨rfl, fun j => ?_⟩
  by_cases hj : i = j
  · subst hj
    have cut := (Station.Keeps.refl (p.station i)).cut (cut_live (dest := .off) (.inl rfl))
    rw [Part.supplyLeave, modify_station_same, setFx_station_same]
    exact cut.fixture fun _ => nofun
  · rw [Part.supplyLeave, modify_station_other _ _ _ _ hj, setFx_station_other _ _ _ _ hj]
    exact .refl _

theorem takeInput_holds {f : Fixture} (h : f.Holds) {k : FixtureInput} (guard : k ≠ .guard) (nest : k ≠ .nest) :
    (f.takeInput k).Holds := by
  obtain ⟨state, there, closed⟩ := h
  cases k with
  | guard => exact absurd rfl guard
  | nest => exact absurd rfl nest
  | _ => exact ⟨state, there, closed⟩

/-- The guard opening, or the part leaving, under a live supply: the change is taken and the supply cut (R83). -/
theorem heldUnit_lost_keeps {k : FixtureInput} (due : p.InputHeld i k) (on : (p.station i).walker.state ≠ .off)
    (live : (p.station i).ps.live = true) (holds : (p.station i).fx.Holds) (lost : k = .guard ∨ k = .nest) :
    p.Keeps (p.debounceChange i k) := by
  have state : ((p.setFx i fun f => f.takeInput k).station i).fx.state = some .clamped := by
    rw [setFx_station_same]
    exact holds.state
  have supplied : ((p.setFx i fun f => f.takeInput k).station i).ps.live = true := by
    rw [setFx_station_same]
    exact live
  have cut := fun r => (setFx_supplyLeave_keeps p i fun f => f.takeInput k).trans (faultReport_keeps _ i r)
  rw [debounceChange_on due on]
  obtain rfl | rfl := lost
  · rw [FixtureLevels.get, holds.guard, Bool.not_true, fixtureOutcome_guardOpens state, Part.guardCut,
      if_pos supplied]
    exact cut _
  · rw [FixtureLevels.get, holds.nest, Bool.not_true, fixtureOutcome_nestLost state, Part.nestLoss, Part.supplyCut,
      if_pos supplied]
    exact cut _

theorem debounceChange_keeps (k : FixtureInput) : p.Keeps (p.debounceChange i k) := by
  by_cases due : p.InputHeld i k
  · by_cases lost :
        ((p.station i).walker.state ≠ .off ∧ (p.station i).ps.live = true ∧ (p.station i).fx.Holds) ∧
          (k = .guard ∨ k = .nest)
    · obtain ⟨⟨on, live, holds⟩, lost⟩ := lost
      exact heldUnit_lost_keeps p i due on live holds lost
    · have taken : p.Keeps (p.setFx i fun f => f.takeInput k) :=
        (Part.Keeps.refl p).setFx i fun held live holds => by
          have other := fun e => lost ⟨⟨(held.live live).2, live, holds⟩, e⟩
          exact takeInput_holds holds (fun e => other (.inl e)) fun e => other (.inr e)
      rw [debounceChange_held due]
      split
      · exact taken
      · rename_i on
        refine taken.trans (fixtureOutcome_keeps (.of_state ?_) _ _)
        rw [setFx_station_same]
        exact on
  · rw [debounceChange_waits due]
    exact .refl p

theorem codeChange_keeps (code : BitVec 6) : p.Keeps (p.codeChange i code) := by
  unfold Part.codeChange
  split
  · exact (Part.Keeps.refl p).setFx i fun _ _ holds => ⟨holds.state, holds.nest, holds.guard⟩
  · exact .refl p

theorem handTimeout_keeps : p.Keeps (p.handTimeout i) := by
  unfold Part.handTimeout
  dsimp only
  split
  · rename_i state _
    split
    · exact (setFx_keeps _ state (by decide)).trans (failClamp_keeps _ i _ _ _)
    · exact .refl p
  · exact .refl p

variable {p i} in
theorem jam_keeps {st : FixtureState} (state : (p.station i).fx.state = some st) (loose : st ≠ .clamped) :
    p.Keeps (p.jam i) := by
  have reported := (setFx_keeps Fixture.toJammed state loose).trans (faultReport_keeps _ i .jammed)
  unfold Part.jam
  dsimp only
  split
  · refine reported.setFx i fun held live _ => ?_
    rw [faultReport_ps, setFx_station_same] at live
    exact absurd (Option.some.inj (state.symm.trans (held.live live).1.state)) loose
  · exact reported

theorem travelExpiry_keeps : p.Keeps (p.travelExpiry i) := by
  unfold Part.travelExpiry
  dsimp only
  split
  · rename_i state _
    split
    · exact jam_keeps state (by decide)
    · exact .refl p
  · rename_i state _
    split
    · exact jam_keeps state (by decide)
    · exact .refl p
  · exact .refl p

end Fixtures

/-! ### Events of the line controllers -/

section Lines
variable (p : Part) (i : StationId)

theorem endFrame_keeps (f : Frame) (result : FrameResult) : p.Keeps (p.endFrame i f result) := by
  have reached : ∀ q : Part, q.Keeps (q.frameReaches i f result) := fun q => by
    unfold Part.frameReaches
    split
    · split
      · exact Part.Keeps.conclude ((Part.Keeps.refl q).setWork i _)
      · exact .refl q
    · split
      · exact finish_keeps q i _
      · exact .refl q
    · exact finish_keeps q i _
    · exact finish_keeps q i _
    · exact .refl q
  exact ((endFrameRecord_keeps p i f result).trans (afterFrame_keeps _ i)).trans (reached _)

theorem transmitting_frame {l : Line} {f : Frame} (h : l.transmitting = some f) : l.frame = some f :=
  (Option.filter_eq_some_iff.mp h).1

theorem windowFrame_frame {l : Line} {f : Frame} (h : l.windowFrame = some f) : l.frame = some f :=
  (Option.filter_eq_some_iff.mp h).1

variable {p i} in
/-- The frame on the wire changes. -/
theorem setFrame_keeps {f : Frame} (sent : (p.station i).lc.frame = some f) (g : Frame) :
    p.Keeps (p.setFrame i g) :=
  (Part.Keeps.refl p).setLc i (Station.Awake.may (.inr (still_of_frame sent)) _)

theorem scheduleDue_keeps (e : Fin 16) : p.Keeps (p.scheduleDue i e) := by
  unfold Part.scheduleDue
  split
  · exact (fallDue_keeps p i e).trans (startFrame_keeps _ i)
  · exact .refl p

theorem wireFree_keeps : p.Keeps (p.wireFree i) := by
  unfold Part.wireFree
  split
  · refine .trans (.setLc (.refl p) i ?_) (startFrame_keeps _ i)
    exact fun _ still => still
  · exact .refl p

theorem syncComplete_keeps : p.Keeps (p.syncComplete i) := by
  unfold Part.syncComplete
  split
  · rename_i syncing
    have awake : (p.station i).Awake := .inr (still_of_state (by rw [syncing]; decide))
    exact ((Part.Keeps.refl p).setLc i (awake.may _)).trans (startFrame_keeps _ i)
  · exact .refl p

theorem bitFault_keeps (noisy : Bool) : p.Keeps (p.bitFault i noisy) := by
  unfold Part.bitFault
  split
  · exact endFrame_keeps p i _ _
  · exact .refl p

theorem sendEnds_keeps (noisy : Bool) : p.Keeps (p.sendEnds i noisy) := by
  unfold Part.sendEnds
  split
  · split
    · exact .refl p
    · exact endFrame_keeps p i _ _
  · exact .refl p

theorem openWindow_keeps (noisy : Bool) : p.Keeps (p.openWindow i noisy) := by
  unfold Part.openWindow
  split
  · rename_i sent
    split
    · exact setFrame_keeps (transmitting_frame sent) _
    · exact .refl p
  · exact .refl p

theorem hearCharacter_keeps (c : CharSamples) : p.Keeps (p.hearCharacter i c) := by
  unfold Part.hearCharacter
  split
  · rename_i sent
    split
    · exact .refl p
    · split
      · exact endFrame_keeps p i _ _
      · exact setFrame_keeps (windowFrame_frame sent) _
  · exact .refl p

theorem allowanceEnds_keeps : p.Keeps (p.allowanceEnds i) := by
  unfold Part.allowanceEnds
  split
  · rename_i sent
    split
    · exact setFrame_keeps (windowFrame_frame sent) _
    · exact .refl p
  · exact .refl p

theorem closeWindow_keeps (noisy : Bool) : p.Keeps (p.closeWindow i noisy) := by
  unfold Part.closeWindow
  split
  · exact endFrame_keeps p i _ _
  · exact .refl p

theorem falseStartBit_keeps : p.Keeps (p.falseStartBit i) := by
  unfold Part.falseStartBit
  split
  · rename_i sent
    exact setFrame_keeps (windowFrame_frame sent) _
  · exact .refl p

theorem stuckReaches_keeps (cut : Option Frame) : p.Keeps (p.stuckReaches i cut) := by
  unfold Part.stuckReaches
  split
  · exact finish_keeps p i _
  · exact finish_keeps p i _
  · exact finish_keeps p i _
  · split
    · split
      · exact Part.Keeps.conclude ((Part.Keeps.refl p).setWork i _)
      · exact .refl p
    · exact .refl p
  · exact .refl p

theorem stuckLine_keeps (recessiveSince : Bool) : p.Keeps (p.stuckLine i recessiveSince) := by
  have told : ∀ (q : Part) cut, q.Keeps
      ((((q.setLc i Line.stick).stuckReaches i cut).setLc i Line.tellStuck).raise (.line i)) := fun q cut =>
    have stuck : q.Keeps (q.setLc i Line.stick) := (Part.Keeps.refl q).setLc i fun _ still => stick_still still
    have flagged : ∀ r : Part, r.Keeps (r.setLc i Line.tellStuck) := fun r =>
      (Part.Keeps.refl r).setLc i fun _ still => still
    ((stuck.trans (stuckReaches_keeps _ i cut)).trans (flagged _)).raise _
  unfold Part.stuckLine
  dsimp only
  split
  · split
    · exact (endFrameRecord_keeps p i _ _).trans (told _ _)
    · exact told p _
  · exact .refl p

end Lines

/-! ### Events of the panel -/

section PanelEvents
variable (p : Part)

theorem answerPrompt_keeps (e : PanelEntry) (r : Result) : p.Keeps (p.answerPrompt e r) :=
  ((Part.Keeps.refl p).panel (endShowing_only p)).trans (completeStep_keeps _ _ r)

theorem pressPrompt_keeps (e : PanelEntry) (key : Key) : p.Keeps (p.pressPrompt e key) := by
  unfold Part.pressPrompt
  split
  · exact (abandonRerun_keeps p _ _).trans (answerPrompt_keeps _ e _)
  · split
    · exact .refl p
    · exact answerPrompt_keeps p e _
  · split
    · exact .refl p
    · split
      · exact answerPrompt_keeps p e _
      · exact answerPrompt_keeps p e _
  · split
    · exact .refl p
    · exact pressRepeat_keeps p e

theorem pressNotice_keeps (key : Key) : p.Keeps (p.pressNotice key) := by
  unfold Part.pressNotice
  split
  · exact (Part.Keeps.refl p).panel (endShowing_only p)
  · exact (Part.Keeps.refl p).panel (endShowing_only p)
  · exact (Part.Keeps.refl p).panel (beep_only p _)
  · exact .refl p

theorem takePress_keeps (key : Key) : p.Keeps (p.takePress key) := by
  unfold Part.takePress
  split
  · exact .refl p
  · split
    · exact .refl p
    · split
      · exact pressNotice_keeps p key
      · exact pressPrompt_keeps p _ key

theorem keyPressed_keeps (key : Key) : p.Keeps (p.keyPressed key) := by
  unfold Part.keyPressed
  split
  · exact ((Part.Keeps.refl p).setPanel _).trans (takePress_keeps _ key)
  · exact .refl p

theorem keyReleased_keeps (key : Key) : p.Keeps (p.keyReleased key) := by
  unfold Part.keyReleased
  split
  · exact (Part.Keeps.refl p).setPanel _
  · exact .refl p

theorem promptExpires_keeps : p.Keeps p.promptExpires := by
  unfold Part.promptExpires
  split
  · split
    · exact answerPrompt_keeps p _ _
    · exact .refl p
  · exact .refl p

theorem render_keeps : p.Keeps p.render := by
  unfold Part.render
  split
  · dsimp only
    split
    · exact (Part.Keeps.refl p).panel ((showText_only p _).trans (publishFigures_only _))
    · exact .refl p
  · exact .refl p

theorem noticeBeeps_keeps : p.Keeps p.noticeBeeps := by
  unfold Part.noticeBeeps
  split
  · split
    · exact ((Part.Keeps.refl p).panel (beep_only p _)).setPanel _
    · exact .refl p
  · exact .refl p

theorem buzzerEnds_keeps : p.Keeps p.buzzerEnds := by
  unfold Part.buzzerEnds
  split
  · split
    · exact (Part.Keeps.refl p).setPanel _
    · exact .refl p
  · exact .refl p

end PanelEvents

/-! ### Events against rack time, of the supply and of the stimulus -/

section Timed
variable (p : Part) (i : StationId)

theorem waitEnds_keeps : p.Keeps (p.waitEnds i) := by
  unfold Part.waitEnds
  split
  · split
    · split
      · exact finish_keeps p i _
      · exact .refl p
    · exact .refl p
  · exact .refl p

theorem nextAttempt_keeps : p.Keeps (p.nextAttempt i) := by
  unfold Part.nextAttempt
  split
  · split
    · split
      · exact (startAttempt_keeps p i _ _).conclude
      · exact .refl p
    · exact .refl p
  · exact .refl p

theorem settleExpires_keeps : p.Keeps (p.settleExpires i) := by
  unfold Part.settleExpires
  split
  · split
    · split
      · split
        · exact finish_keeps p i _
        · exact (Part.Keeps.refl p).setWork i _
      · exact .refl p
    · exact .refl p
  · exact .refl p

theorem listenExpires_keeps : p.Keeps (p.listenExpires i) := by
  unfold Part.listenExpires
  split
  · split
    · split
      · exact finish_keeps p i _
      · exact .refl p
    · exact .refl p
  · exact .refl p

theorem supplyStep_keeps : p.Keeps (p.supplyStep i) := by
  unfold Part.supplyStep
  dsimp only
  split
  · rename_i due
    have stepped : p.Keeps (p.setPs i fun _ => (p.station i).ps.rampStep) :=
      (Part.Keeps.refl p).setPs i (supply_rampStep_live due.1)
    split
    · exact stepped.trans (finish_keeps _ i _)
    · exact stepped
  · exact .refl p

theorem monitorSample_keeps (mA mV : Nat) (inLimit : Bool) : p.Keeps (p.monitorSample i mA mV inLimit) := by
  unfold Part.monitorSample
  split
  · exact (Part.Keeps.refl p).setPs i rfl
  · exact .refl p

theorem trip_keeps : p.Keeps (p.trip i) := by
  unfold Part.trip
  dsimp only
  split
  · exact (supplyLeave_keeps p i (.inr rfl)).trans (faultReport_keeps _ i _)
  · exact .refl p

theorem rampStep_keeps (c : RampChannel) : p.Keeps (p.rampStep i c) := by
  unfold Part.rampStep
  dsimp only
  split
  · exact .refl p
  · rename_i r ramps
    have stepped : ∀ s, p.Keeps ((p.setSt i fun _ => s).setWalker i fun w => w.countStep c) := fun s => by
      refine Part.Keeps.works ((Part.Keeps.refl p).setSt i fun _ park => ?_) i (countStep_eq _ c)
      rw [park, ramp_park] at ramps
      cases ramps
    split
    · split
      · split
        · exact (stepped _).trans (finish_keeps _ i _)
        · exact stepped _
      · exact stepped _
    · exact .refl p

theorem boundary_keeps (g : Fin 4) :
    p.Keeps (p.setSt i fun t => { t with pg := put t.pg g t.pg[g].boundary }) :=
  (Part.Keeps.refl p).setSt i fun _ park => by
    rw [park]
    exact boundary_park g

end Timed

/-! ### Events of the rack and of the host -/

section Rack
variable (p : Part)

theorem writeSweep_keeps : p.Keeps p.writeSweep := by
  unfold Part.writeSweep
  split
  · exact sweep_keeps p
  · exact .refl p

theorem periodicSweep_keeps : p.Keeps p.periodicSweep := by
  have counted : ∀ b, p.Keeps { p with sweepBase := b } := fun _ => (Part.Keeps.refl p).leaves rfl rfl
  unfold Part.periodicSweep
  split
  · split
    · exact (counted _).trans (sweep_keeps _)
    · exact .refl p
  · exact .refl p

theorem writeStnctl_keeps (v : Word) : p.Keeps (p.writeStnctl v) := by
  refine eachStation_keeps p fun i q => ?_
  dsimp only
  split
  · split
    · exact (halt_keeps q i).trans (clear_keeps _ i)
    · exact clear_keeps q i
  · split
    · exact halt_keeps q i
    · exact .refl q

theorem guardedWrite_keeps (i : StationId) (c : CellId) (v : Word) : p.Keeps (p.guardedWrite i c v) := by
  unfold Part.guardedWrite
  dsimp only
  split <;> exact (Part.Keeps.refl p).leaves rfl rfl

theorem writeMemory_keeps (x : Nat) (v : Word) : p.Keeps (p.writeMemory x v) := by
  unfold Part.writeMemory
  split
  · exact guardedWrite_keeps p _ _ v
  · exact (Part.Keeps.refl p).poke32 _ _

theorem rackTick_keeps (keys : RawMs 4) (fixtures : Vector FixtureRaw 4) : p.Keeps (p.rackTick keys fixtures) := by
  have counted : p.Keeps (p.countFixtures fixtures) :=
    eachStation_keeps p fun i q => (Part.Keeps.refl q).setFx i fun _ _ holds =>
      ⟨holds.state, holds.nest, holds.guard⟩
  have written : ∀ q : Part, q.Keeps
      (q.eachStation fun i q => if (q.station i).walker.state = .off then q else q.writeInputs i) := fun q => by
    refine eachStation_keeps q fun i q => ?_
    split
    · exact .refl q
    · exact writeInputs_keeps q i
  have advanced : ∀ (q : Part) (now : Time) (c : Panel), q.Keeps { q with rackTime := now, panel := c } :=
    fun q _ _ => (Part.Keeps.refl q).leaves rfl rfl
  have ticked : ∀ q : Part, q.Keeps (q.tick keys) := fun q => by
    unfold Part.tick
    exact (written q).trans (advanced _ _ _)
  unfold Part.rackTick
  dsimp only
  split
  · exact counted
  · exact counted.trans (ticked _)

theorem readGuardLog_keeps : p.Keeps p.readGuardLog := by
  unfold Part.readGuardLog
  split
  · exact (Part.Keeps.refl p).leaves rfl rfl
  · exact (Part.Keeps.refl p).leaves rfl rfl

theorem endReset_keeps : p.Keeps p.endReset := by
  unfold Part.endReset
  split
  · exact (Part.Keeps.refl p).leaves rfl rfl
  · exact .refl p

end Rack

end Sys2Proof.Machine
end

section
/-! The laws of the supply over every step (R73, R84): what an enable, a disable and a reset make of the station
columns, and all commands together. -/

namespace Sys2Proof.Machine

/-! ### The two laws of the part -/

theorem parkLaw_iff (p : Part) : p.ParkLaw ↔ ∀ i, (p.station i).Parked :=
  forall_congr' fun _ => deadIsParked_iff _

theorem supplyLaw_iff (p : Part) :
    p.SupplyLaw ↔
      (∀ i, (p.station i).Held) ∧ (p.enabled = false → ∀ i, (p.station i).walker.state = .off) := by
  simp only [Part.SupplyLaw, Part.StepLaw, held_iff, forall_and, and_assoc]

/-- A change of the part that keeps both laws. -/
structure Part.Carries (p q : Part) : Prop where
  park : p.ParkLaw → q.ParkLaw
  supply : p.SupplyLaw → q.SupplyLaw

section Carries
variable {p q r : Part}

theorem Part.Carries.refl (p : Part) : p.Carries p := ⟨id, id⟩

/-- What follows a change and leaves the station columns and the enable. -/
theorem Part.Carries.leaves (h : p.Carries q) (hs : r.stations = q.stations) (he : r.enabled = q.enabled) :
    p.Carries r := by
  have same : ∀ i, r.station i = q.station i := fun i => by rw [Part.station, Part.station, hs]
  refine ⟨fun law => ?_, fun law => ?_⟩
  · have parked := (parkLaw_iff q).mp (h.park law)
    exact (parkLaw_iff r).mpr fun i => by rw [same]; exact parked i
  · obtain ⟨held, off⟩ := (supplyLaw_iff q).mp (h.supply law)
    refine (supplyLaw_iff r).mpr ⟨fun i => ?_, fun dark i => ?_⟩
    · rw [same]
      exact held i
    · rw [same]
      exact off (he.symm.trans dark) i

theorem Part.Keeps.carries (h : p.Keeps q) : p.Carries q where
  park law := (parkLaw_iff q).mpr fun i => (h.station i).parked ((parkLaw_iff p).mp law i)
  supply law :=
    have ⟨held, off⟩ := (supplyLaw_iff p).mp law
    (supplyLaw_iff q).mpr ⟨fun i => (h.station i).held (held i), fun dark i =>
      ((h.station i).off (held i)).mpr (off (h.enabled.symm.trans dark) i)⟩

/-- The closing of an event leaves the station columns. -/
theorem Part.Carries.commit (h : p.Carries q) : p.Carries (Part.commit p q) := h.leaves rfl rfl

end Carries

/-! ### Resets -/

theorem afterReset_parked (x : Station) : x.afterReset.Parked := fun _ => ⟨rfl, rfl⟩

theorem afterReset_held (x : Station) : x.afterReset.Held := ⟨nofun, fun moving => absurd rfl moving⟩

theorem resetRunning_station (p : Part) (cause : ResetCause) (j : StationId) :
    (p.resetRunning cause).station j = (p.station j).afterReset := by
  simp only [Part.resetRunning, Part.resetBlocks, Part.station, Fin.getElem_fin, mapEach_get]
  rfl

theorem resetRunning_carries (p : Part) (cause : ResetCause) : p.Carries (p.resetRunning cause) where
  park _ := (parkLaw_iff _).mpr fun j => by
    rw [resetRunning_station]
    exact afterReset_parked _
  supply _ := (supplyLaw_iff _).mpr ⟨fun j => by
    rw [resetRunning_station]
    exact afterReset_held _, fun _ j => by
    rw [resetRunning_station]
    rfl⟩

theorem resetPin_carries (p : Part) : p.Carries p.resetPin := by
  cases hr : p.inReset with
  | none =>
    rw [resetPin_runs hr]
    exact (resetRunning_carries p .pin).leaves rfl rfl
  | some _ =>
    rw [resetPin_held hr]
    exact (Part.Carries.refl p).leaves rfl rfl

/-- A power-on leaves the columns of the reset state, which meets every law. -/
theorem powerOn_carries (p : Part) (contents : List Host.Cell) : p.Carries (p.powerOn contents) := by
  have reset : p.Carries State.reset.part := by
    obtain ⟨-, -, -, -, -, -, park, supply, -⟩ := resetStateIsLawful
    exact ⟨fun _ => park, fun _ => supply⟩
  exact reset.leaves rfl rfl

/-! ### Disable -/

/-- What a disable keeps of a station column. -/
structure Station.Darkens (x y : Station) : Prop where
  parked : x.Parked → y.Parked
  held : x.Held → y.Held
  off : x.walker.state = .off → y.walker.state = .off

theorem Station.Darkens.refl (x : Station) : x.Darkens x := ⟨id, id, id⟩

theorem Station.Darkens.trans {x y z : Station} (h : x.Darkens y) (h' : y.Darkens z) : x.Darkens z :=
  ⟨h'.parked ∘ h.parked, h'.held ∘ h.held, h'.off ∘ h.off⟩

/-- A supply taken OFF is dead. -/
theorem supplyOff_dead (p : Part) (i : StationId) : ((p.supplyOff i).station i).ps.live = false := by
  unfold Part.supplyOff
  split
  · rename_i off
    rw [Supply.live, off]
  · rw [Part.supplyLeave, modify_station_same]
    rfl

/-- A station taken down is OFF, its supply dead and no step in flight (R198). -/
theorem takeDown_darkens (p : Part) (i : StationId) : (p.station i).Darkens ((p.takeDown i).station i) ∧
    ((p.takeDown i).station i).walker.state = .off := by
  unfold Part.takeDown
  split
  · rename_i off
    exact ⟨.refl _, off⟩
  · have kept := ((supplyOff_keeps p i).trans (abandonStep_keeps _ i .disabled)).trans (closeRun_keeps _ i)
    obtain ⟨supply, rests⟩ := abandonStep_leaves (p.supplyOff i) i .disabled
    have dead := supplyOff_dead p i
    rw [← supply, ← closeRun_ps] at dead
    rw [← closeRun_step] at rests
    dsimp only
    generalize ((p.supplyOff i).abandonStep i .disabled).closeRun i = q at kept dead rests
    rw [modify_station_same]
    exact ⟨⟨(kept.station i).parked, fun _ =>
      ⟨fun live => Bool.noConfusion (dead.symm.trans live), fun moving => absurd rests moving⟩, fun _ => rfl⟩, rfl⟩

theorem takeDowns_darken (l : List StationId) (p : Part) (j : StationId) :
    (p.station j).Darkens ((l.foldl (fun q i => q.takeDown i) p).station j) ∧
      (j ∈ l → ((l.foldl (fun q i => q.takeDown i) p).station j).walker.state = .off) := by
  induction l generalizing p with
  | nil => exact ⟨.refl _, nofun⟩
  | cons i l ih =>
    obtain ⟨later, off⟩ := ih (p.takeDown i)
    rw [List.foldl_cons]
    by_cases hj : j = i
    · subst hj
      obtain ⟨down, dark⟩ := takeDown_darkens p j
      exact ⟨down.trans later, fun _ => later.off dark⟩
    · rw [(takeDown_local p i).others j hj] at later
      exact ⟨later, fun h => off ((List.mem_cons.mp h).resolve_left hj)⟩

theorem disablePanel_only (p : Part) : PanelOnly p p.disablePanel :=
  ((setPanel_only _ _).trans (publishPanel_only _)).trans (showText_only _ _)

theorem disable_carries (p : Part) : p.Carries p.disable := by
  have columns : ∀ j, p.disable.station j =
      (stationIds.foldl (fun (q : Part) i => q.takeDown i) { p with enabled := false }).station j := fun j => by
    unfold Part.disable Part.eachStation
    dsimp only
    rw [(disablePanel_only _).station, setConv_station]
  have down := takeDowns_darken stationIds { p with enabled := false }
  have every : ∀ j : StationId, j ∈ stationIds := by decide
  refine ⟨fun law => (parkLaw_iff _).mpr fun j => ?_,
    fun law => (supplyLaw_iff _).mpr ⟨fun j => ?_, fun _ j => ?_⟩⟩
  · rw [columns]
    exact (down j).1.parked ((parkLaw_iff p).mp law j)
  · rw [columns]
    exact (down j).1.held (((supplyLaw_iff p).mp law).1 j)
  · rw [columns]
    exact (down j).2 (every j)

/-! ### Enable -/

/-- What an enable keeps of a station column: its laws, where the supply is dead, as it is while the rack is disabled. -/
structure Station.Rises (x y : Station) : Prop where
  parked : x.Parked → y.Parked
  dead : x.ps.live = false → y.ps.live = false
  held : x.ps.live = false → x.Held → y.Held

theorem Station.Rises.refl (x : Station) : x.Rises x := ⟨id, id, fun _ => id⟩

theorem Station.Rises.trans {x y z : Station} (h : x.Rises y) (h' : y.Rises z) : x.Rises z :=
  ⟨h'.parked ∘ h.parked, h'.dead ∘ h.dead, fun dead held => h'.held (h.dead dead) (h.held dead held)⟩

section Enable
variable (p : Part) (raw : RawLevels) (i : StationId)

theorem recoverCells_station (j : StationId) : (p.recoverCells i).station j = p.station j := by
  have cell : ∀ (q : Part) c, (q.recoverCell i c).station j = q.station j := fun q c => by
    unfold Part.recoverCell
    dsimp only
    split <;> rfl
  unfold Part.recoverCells
  induction cellIds generalizing p with
  | nil => rfl
  | cons c l ih => rw [List.foldl_cons, ih, cell]

theorem recoverRun_station : ∃ w, (p.recoverRun i).station i = { p.station i with walker := w } := by
  unfold Part.recoverRun
  dsimp only
  obtain ⟨u, closed⟩ := closeRun_station (p.setRun i fun _ =>
    if (p.readRun i).state = .opened then (p.readRun i).agree else p.readRun i) i
  rw [closed, Part.setRun, setWalker_station_same]
  exact ⟨_, rfl⟩

/-- The line of a station brought up is still (R114). -/
theorem enableLine_station : ∃ l, l.still = true ∧ (p.enableLine i).station i = { p.station i with lc := l } := by
  unfold Part.enableLine
  dsimp only
  rw [memory_station, setLc_station_same]
  exact ⟨_, rfl, rfl⟩

theorem enableMonitors_station (levels : BitVec 8) :
    ∃ a, (p.enableMonitors i levels).station i = { p.station i with aq := a } := by
  have written : ∀ (l : List (Fin 8)) (q : Part),
      (l.foldl (fun q k => q.writeInput i k) q).station i = q.station i := by
    intro l
    induction l with
    | nil => exact fun _ => rfl
    | cons k l ih => exact fun q => ih (q.writeInput i k)
  unfold Part.enableMonitors
  dsimp only
  rw [memory_station, written, setAq_station_same]
  exact ⟨_, rfl⟩

/-- A station brought up keeps its supply and its stimulus; its line is still and no step is in flight. -/
theorem bringUp_station : ∃ w f l a, w.step = none ∧ l.still = true ∧
    (p.bringUp raw i).station i =
      { p.station i with walker := w, fx := f, lc := l, aq := a } := by
  have published : ∀ (q : Part) j, (q.publishAll i).station j = q.station j := fun _ _ => rfl
  unfold Part.bringUp
  dsimp only
  obtain ⟨w, run⟩ := recoverRun_station (p.recoverCells i) i
  obtain ⟨l, still, line⟩ :=
    enableLine_station (((p.recoverCells i).recoverRun i).setFx i fun f => f.enable p.rackTime) i
  obtain ⟨a, monitors⟩ := enableMonitors_station
    ((((p.recoverCells i).recoverRun i).setFx i fun f => f.enable p.rackTime).enableLine i) i raw.inputs[i]
  rw [published, setWalker_station_same, monitors, line, setFx_station_same, run, recoverCells_station]
  exact ⟨_, _, l, a, rfl, still, rfl⟩

theorem bringUp_rises (j : StationId) : (p.station j).Rises ((p.bringUp raw i).station j) := by
  by_cases hj : j = i
  · subst hj
    obtain ⟨w, f, l, a, rests, still, column⟩ := bringUp_station p raw j
    rw [column]
    exact ⟨fun parked dead => ⟨(parked dead).1, still⟩, id, fun dead _ =>
      ⟨fun live => Bool.noConfusion (dead.symm.trans live), fun moving => absurd rests moving⟩⟩
  · rw [(bringUp_local p i raw).others j hj]
    exact .refl _

theorem bringUps_rise (mask : BitVec 4) (j : StationId) :
    (p.station j).Rises ((p.eachStation fun i q => if mask.getLsbD i.val then q.bringUp raw i else q).station j) := by
  unfold Part.eachStation
  induction stationIds generalizing p with
  | nil => exact .refl _
  | cons i l ih =>
    refine .trans ?_ (ih _)
    dsimp only
    split
    · exact bringUp_rises p raw i j
    · exact .refl _

/-- An enable keeps the rack enabled. -/
theorem enable_enabled : (p.enable raw).enabled = true := by
  have up : ∀ (q : Part) (mask : BitVec 4),
      (q.eachStation fun i r => if mask.getLsbD i.val then r.bringUp raw i else r).enabled = q.enabled :=
    fun q mask => by
    have event : Part.Event q (q.eachStation fun i r => if mask.getLsbD i.val then r.bringUp raw i else r) := by
      refine eachStation_event q fun i r => ?_
      split
      · exact (bringUp_local r i raw).event
      · exact .refl r
    rw [event.stands]
  have shown : ∀ q : Part, (q.enablePanel raw.keys).enabled = q.enabled := fun q => by
    rw [(enablePanel_local q 0 raw.keys).stands]
  unfold Part.enable
  dsimp only
  rw [shown]
  exact up _ _

theorem enablePanel_only (keys : BitVec 4) : PanelOnly p (p.enablePanel keys) :=
  ((setPanel_only _ _).trans (publishPanel_only _)).trans (showIdle_only _)

theorem enable_rises (j : StationId) : (p.station j).Rises ((p.enable raw).station j) := by
  unfold Part.enable
  dsimp only
  rw [(enablePanel_only _ raw.keys).station]
  exact bringUps_rise { p with enabled := true, config := p.readRackConfig } raw p.readRackConfig.mask j

/-- An enable comes to a disabled rack, all of whose stations are OFF and their supplies dead. -/
theorem enable_carries (disabled : p.enabled = false) : p.Carries (p.enable raw) := by
  refine ⟨fun law => (parkLaw_iff _).mpr fun j => (enable_rises p raw j).parked ((parkLaw_iff p).mp law j),
    fun law => ?_⟩
  obtain ⟨held, off⟩ := (supplyLaw_iff p).mp law
  refine (supplyLaw_iff _).mpr ⟨fun j => (enable_rises p raw j).held ?_ (held j), fun dark => ?_⟩
  · exact Bool.eq_false_of_not_eq_true fun live => ((held j).live live).2 (off disabled j)
  · rw [enable_enabled] at dark
    cases dark

end Enable

theorem tryEnable_carries (p : Part) (raw : RawLevels) (disabled : p.enabled = false) :
    p.Carries (p.tryEnable raw) := by
  have recorded : ∀ e, p.Carries (p.writeConfigError e) := fun e => by
    cases e <;> exact (Part.Carries.refl p).leaves rfl rfl
  have marked : ∀ e, (p.writeConfigError e).enabled = p.enabled := fun e => by cases e <;> rfl
  unfold Part.tryEnable
  split
  · exact recorded _
  · have enabled := enable_carries (p.writeConfigError none) raw ((marked none).trans disabled)
    exact ⟨enabled.park ∘ (recorded none).park, enabled.supply ∘ (recorded none).supply⟩

theorem writeControl_carries (p : Part) (v : Word) (raw : RawLevels) : p.Carries (p.writeControl v raw) := by
  unfold Part.writeControl
  dsimp only
  refine Part.Carries.leaves (q := if writtenEnable v && !p.enabled then p.tryEnable raw
    else if !writtenEnable v && p.enabled then p.disable else p) ?_ rfl rfl
  split
  · rename_i sets
    obtain ⟨-, disabled⟩ := Bool.and_eq_true_iff.mp sets
    exact tryEnable_carries p raw (by simpa using disabled)
  · split
    · exact disable_carries p
    · exact .refl p

/-! ### Every command -/

theorem take_carries {p : Part} {f : Part → Part} (h : p.Keeps (f p)) : p.Carries (p.take f) := by
  unfold Part.take
  split
  · exact .refl p
  · exact h.carries.commit

theorem rackctlWrite_carries (p : Part) (v : Word) (raw : RawLevels) : p.Carries (p.rackctlWrite v raw) := by
  unfold Part.rackctlWrite
  split
  · exact .refl p
  · split
    · exact (resetRunning_carries p .soft).leaves rfl rfl
    · exact (writeControl_carries p v raw).commit

theorem writeRegister_carries (p : Part) (r : Register) (v : Word) : p.Carries (p.writeRegister r v) := by
  have rest : ∀ q : Part, q.stations = p.stations → q.enabled = p.enabled → p.Keeps q :=
    fun _ => (Part.Keeps.refl p).leaves
  cases r with
  | ident | racktime | guardlog => exact take_carries (f := fun q => q) (.refl p)
  | rackctl => exact rackctlWrite_carries p v _
  | sweep => exact take_carries (writeSweep_keeps p)
  | stnctl => exact take_carries (f := fun q => q.writeStnctl v) (writeStnctl_keeps p v)
  | attn => exact take_carries (f := fun q => q.writeAttn v) (rest _ rfl rfl)
  | attnmask => exact take_carries (f := fun q => q.writeAttnMask v) (rest _ rfl rfl)

theorem hostWrite_carries (p : Part) (k : BitVec 14) (v : Word) : p.Carries (p.hostWrite k v) := by
  unfold Part.hostWrite
  split
  · exact writeRegister_carries p _ v
  · exact take_carries (writeMemory_keeps p _ v)

/-- Every command keeps both laws. -/
theorem exec_carries {c : Instr} {s t : State} (h : exec c s = .next t) : s.part.Carries t.part := by
  have event : ∀ f : Part → Part, s.event f = .next t → s.part.Keeps (f s.part) → s.part.Carries t.part :=
    fun f h keeps => by
      cases h
      exact take_carries keeps
  have always : ∀ f : Part → Part, s.always f = .next t → s.part.Keeps (f s.part) → s.part.Carries t.part :=
    fun f h keeps => by
      cases h
      exact keeps.carries.commit
  have rest : ∀ q : Part, q.stations = s.part.stations → q.enabled = s.part.enabled → s.part.Keeps q :=
    fun _ => (Part.Keeps.refl s.part).leaves
  cases c with
  | powerOnReset contents => cases h; exact powerOn_carries _ contents
  | resetPinAsserted => cases h; exact resetPin_carries _
  | softReset v => cases h; exact rackctlWrite_carries _ v _
  | rackEnable v raw => cases h; exact rackctlWrite_carries _ v raw
  | rackDisable v => cases h; exact rackctlWrite_carries _ v _
  | sweepmodeWrite v => cases h; exact rackctlWrite_carries _ v _
  | sweepWrite v => exact event _ h (writeSweep_keeps s.part)
  | periodicSweep => exact event _ h (periodicSweep_keeps s.part)
  | stationHalt v => exact event _ h (writeStnctl_keeps s.part v)
  | stationClear v => exact event _ h (writeStnctl_keeps s.part v)
  | attnClear v => exact event _ h (rest _ rfl rfl)
  | attnmaskWrite v => exact event _ h (rest _ rfl rfl)
  | guardlogRead => cases h; exact (readGuardLog_keeps _).carries
  | registerWriteIgnored r v => cases h; exact writeRegister_carries _ r v
  | hostMemoryWrite k v => cases h; exact hostWrite_carries _ k v
  | hostCellStateWrite i c v => exact event _ h (guardedWrite_keeps s.part i c v)
  | rackTimeTick keys fixtures =>
    exact always (fun p => p.rackTick keys fixtures) h (rackTick_keeps s.part keys fixtures)
  | waitExpiry i => exact event _ h (waitEnds_keeps s.part i)
  | fixtureDebounceChange i k => exact always _ h (debounceChange_keeps s.part i k)
  | fixtureCodeChange i d => exact always _ h (codeChange_keeps s.part i d)
  | twoHandTimeout i => exact event _ h (handTimeout_keeps s.part i)
  | travelTimeout i => exact event _ h (travelExpiry_keeps s.part i)
  | supplyRampStep i => exact event _ h (supplyStep_keeps s.part i)
  | supplyMonitorSample i mA mV b => exact event _ h (monitorSample_keeps s.part i _ _ b)
  | supplyTrip i => exact event _ h (trip_keeps s.part i)
  | stimulusRampStep i k => exact event _ h (rampStep_keeps s.part i k)
  | pgPeriodBoundary i g => exact event _ h (boundary_keeps s.part i g)
  | scheduleEntryDue i e => exact event _ h (scheduleDue_keeps s.part i e)
  | wireFree i => exact event _ h (wireFree_keeps s.part i)
  | lineSyncComplete i => exact event _ h (syncComplete_keeps s.part i)
  | bitError i b => exact event _ h (bitFault_keeps s.part i b)
  | frameEnd i b => exact event _ h (sendEnds_keeps s.part i b)
  | responseCharacterReceived i x => exact event _ h (hearCharacter_keeps s.part i x)
  | responseAllowanceExpiry i => exact event _ h (allowanceEnds_keeps s.part i)
  | responseWindowClose i b => exact event _ h (closeWindow_keeps s.part i b)
  | lineStuck i b => exact event _ h (stuckLine_keeps s.part i b)
  | sampleEnd v => exact event _ h (sampleEnds_keeps s.part v)
  | inputFilteredEdge i k tick => exact event _ h (inputEdge_keeps s.part i k tick)
  | inputExcursionRejected i k => exact event _ h (inputReject_keeps s.part i k)
  | edgeWindowClose i => exact event _ h (windowEnds_keeps s.part i)
  | meterGateEnd i n => exact event _ h ((Part.Keeps.refl s.part).setAq i _)
  | meterDeadline i n => exact event _ h (meterExpires_keeps s.part i n)
  | lampIdentityRead i b => exact event _ h (identityRead_keeps s.part i b)
  | lampRowUpdate i v => exact event _ h (rowUpdate_keeps s.part i v)
  | attemptStart i => exact event _ h (nextAttempt_keeps s.part i)
  | settleTimeout i => exact event _ h (settleExpires_keeps s.part i)
  | listenTimeout i => exact event _ h (listenExpires_keeps s.part i)
  | keyPress k => exact event _ h (keyPressed_keeps s.part k)
  | promptTimeout => exact event _ h (promptExpires_keeps s.part)
  | panelRender => exact event _ h (render_keeps s.part)
  | noticeBeep => exact event _ h (noticeBeeps_keeps s.part)
  | buzzerEnd => exact event _ h (buzzerEnds_keeps s.part)
  | resetEnd => cases h; exact (endReset_keeps _).carries
  | keyRelease k => exact event _ h (keyReleased_keeps s.part k)
  | responseWindowOpen i b => exact event _ h (openWindow_keeps s.part i b)
  | falseStart i => exact event _ h (falseStartBit_keeps s.part i)

/-- A step keeps both laws. -/
theorem step_carries {s t : State} (h : step s = .next t) : s.part.Carries t.part := by
  unfold step at h
  split at h
  · cases h
    exact .refl _
  · rename_i c rest _
    exact exec_carries (s := { s with pending := rest }) h

/-- Settles O8: a supply dies by the cut alone, which parks the stimulus and stills the line; while it is dead neither
moves. -/
theorem deadSupplyIsParked : Obligations.DeadSupplyIsParked := fun _ _ law h => (step_carries h).park law

/-- Settles O9: a POWER ON alone makes a supply live, over a held unit; no fixture leaves CLAMPED under a live supply,
and the loss of its part or its guard cuts it. -/
theorem liveSupplyIsHeld : Obligations.LiveSupplyIsHeld := fun _ _ law h => (step_carries h).supply law

end Sys2Proof.Machine
end

section
/-! The supply channel's own events (R75 to R82): the numbers of a POWER, its take, the steps of a ramp, the monitor's
samples and the trip. -/

namespace Sys2Proof.Machine

/-! ### The output of a ramp (R78) -/

theorem roundHalfUp_mul (v : Int) {t : Nat} (ht : 0 < t) : roundHalfUp (v * t) t = v := by
  have half : (t : Int) / (2 * t) = 0 := Int.ediv_eq_zero_of_lt (by omega) (by omega)
  rw [roundHalfUp, show 2 * (v * (t : Int)) + t = t + v * (2 * t) by ring,
    Int.add_mul_ediv_right _ _ (by omega), half, zero_add]

theorem roundHalfUp_mono {a b : Int} (h : a ≤ b) {t : Nat} (ht : 0 < t) : roundHalfUp a t ≤ roundHalfUp b t :=
  Int.ediv_le_ediv (by omega) (by omega)

section Output
variable {v0 vs k t : Nat} (ht : 0 < t)
include ht

theorem rampOutput_zero : rampOutput v0 vs 0 t = v0 := by
  rw [rampOutput, Int.natCast_zero, mul_zero, add_zero, roundHalfUp_mul _ ht, Int.toNat_natCast]

theorem rampOutput_full : rampOutput v0 vs t t = vs := by
  rw [rampOutput, show (v0 : Int) * t + ((vs : Int) - v0) * t = vs * t by ring, roundHalfUp_mul _ ht,
    Int.toNat_natCast]

/-- A ramp's output lies between two numbers if the straight line it rounds does. -/
theorem rampOutput_between {low high : Nat} (hl : (low : Int) * t ≤ v0 * t + ((vs : Int) - v0) * k)
    (hh : (v0 : Int) * t + ((vs : Int) - v0) * k ≤ high * t) :
    low ≤ rampOutput v0 vs k t ∧ rampOutput v0 vs k t ≤ high := by
  have above := roundHalfUp_mono hl ht
  have below := roundHalfUp_mono hh ht
  rw [roundHalfUp_mul _ ht] at above below
  unfold rampOutput
  omega

theorem rampOutput_rises (hk : k ≤ t) (h : v0 ≤ vs) :
    v0 ≤ rampOutput v0 vs k t ∧ rampOutput v0 vs k t ≤ vs := by
  have rise : (0 : Int) ≤ vs - v0 := by omega
  exact rampOutput_between ht (by nlinarith) (by nlinarith)

theorem rampOutput_falls (hk : k ≤ t) (h : vs ≤ v0) :
    vs ≤ rampOutput v0 vs k t ∧ rampOutput v0 vs k t ≤ v0 := by
  have fall : (0 : Int) ≤ v0 - vs := by omega
  exact rampOutput_between ht (by nlinarith) (by nlinarith)

end Output

/-! ### The numbers of a POWER (R75, R76) -/

theorem clampNat_within {low high : Nat} (h : low ≤ high) (v : Nat) :
    low ≤ clampNat low high v ∧ clampNat low high v ≤ high := by
  unfold clampNat
  split
  · exact ⟨le_rfl, h⟩
  · split <;> omega

theorem clampNat_ne_iff (low high v : Nat) :
    clampNat low high v ≠ v ↔ v < low ∨ high < v := by
  unfold clampNat
  split
  · omega
  · split <;> omega

/-- The clamped numbers of a POWER ON, and whether one was replaced. -/
def powerNumbers (q : BitVec 256) : PowerNumbers :=
  let v := field q 6 2
  let c := field q 8 2
  let r := field q 10 2
  let d := field q 12 2
  { setpoint := clampNat 6000 16000 v, limit := clampNat 100 5000 c, rampTime := clampNat 0 1000 r
    tripDelay := clampNat 1 250 d
    limited := decide (v < 6000 ∨ 16000 < v ∨ c < 100 ∨ 5000 < c ∨ 1000 < r ∨ d < 1 ∨ 250 < d) }

theorem powerParams_eq (q : BitVec 256) :
    powerParams q =
      if field q 4 1 = 0 then some none else if field q 4 1 = 1 then some (some (powerNumbers q)) else none := by
  have replaced : ∀ v c r d,
      (clampNat 6000 16000 v ≠ v ∨ clampNat 100 5000 c ≠ c ∨ clampNat 0 1000 r ≠ r ∨ clampNat 1 250 d ≠ d) ↔
        (v < 6000 ∨ 16000 < v ∨ c < 100 ∨ 5000 < c ∨ 1000 < r ∨ d < 1 ∨ 250 < d) := fun v c r d => by
    simp only [clampNat_ne_iff]
    omega
  simp only [powerParams, replaced]
  rfl

theorem powerParams_iff (q : BitVec 256) (m : Option PowerNumbers) :
    powerParams q = some m ↔ (field q 4 1 = 0 ∧ m = none) ∨ (field q 4 1 = 1 ∧ m = some (powerNumbers q)) := by
  rw [powerParams_eq]
  split
  · rename_i off
    simp [off, eq_comm]
  · split
    · rename_i on
      simp [on, eq_comm]
    · simp_all

/-- The numbers of a POWER ON lie in their ranges. -/
theorem powerParams_ranges {q : BitVec 256} {n : PowerNumbers} (h : powerParams q = some (some n)) :
    6000 ≤ n.setpoint ∧ n.setpoint ≤ 16000 ∧ 100 ≤ n.limit ∧ n.limit ≤ 5000 ∧ n.rampTime ≤ 1000 ∧
      1 ≤ n.tripDelay ∧ n.tripDelay ≤ 250 := by
  obtain ⟨-, absent⟩ | ⟨-, numbers⟩ := (powerParams_iff q _).mp h
  · cases absent
  · obtain rfl := Option.some.inj numbers
    obtain ⟨v, v'⟩ := clampNat_within (low := 6000) (high := 16000) (by decide) (field q 6 2)
    obtain ⟨c, c'⟩ := clampNat_within (low := 100) (high := 5000) (by decide) (field q 8 2)
    obtain ⟨-, r⟩ := clampNat_within (low := 0) (high := 1000) (by decide) (field q 10 2)
    obtain ⟨d, d'⟩ := clampNat_within (low := 1) (high := 250) (by decide) (field q 12 2)
    exact ⟨v, v', c, c', r, d, d'⟩

/-! ### The take of a POWER (R75 to R79, R84) -/

section Take
variable {p : Part} {i : StationId} {t : Step}

theorem startStep_power (kind : Kind.ofCode t.kind = some .power) : p.startStep i t = p.startPower i t := by
  simp only [Part.startStep, kind]

theorem startPower_bad (h : powerParams t.params = none) : p.startPower i t = (p, some (.error .badParam)) := by
  simp only [Part.startPower, h]

theorem startPower_offAlready (h : powerParams t.params = some none) (off : (p.station i).ps.state = .off) :
    p.startPower i t = (p, some (.done 0 0 0)) := by
  simp only [Part.startPower, h, Part.supplyOff, off, if_true]

theorem startPower_off (h : powerParams t.params = some none) (on : (p.station i).ps.state ≠ .off) :
    p.startPower i t = (p.supplyLeave i .off, some (.done 0 (p.station i).ps.commanded 0)) := by
  simp only [Part.startPower, h, Part.supplyOff, on, if_false]

variable {n : PowerNumbers} (h : powerParams t.params = some (some n))
include h

theorem startPower_notClamped (state : (p.station i).fx.state ≠ some .clamped) :
    p.startPower i t = (p, some (.error .notClamped)) := by
  simp only [Part.startPower, h, if_pos state]

variable (state : (p.station i).fx.state = some .clamped)
include state

theorem startPower_noPart (nest : (p.station i).fx.levels.nest = false) :
    p.startPower i t = (p, some (.error .noPart)) := by
  simp only [Part.startPower, h, state, nest, ne_eq, not_true, if_false, if_true]

variable (nest : (p.station i).fx.levels.nest = true)
include nest

theorem startPower_interlock (guard : (p.station i).fx.levels.guard = false) :
    p.startPower i t = (p, some (.error .interlock)) := by
  simp only [Part.startPower, h, state, nest, guard, ne_eq, not_true, if_false, if_true, Bool.true_eq_false]

/-- A POWER ON over a held unit: the supply takes its numbers, the line leaves DORMANT, and the step ends at once or
waits for the ramp. -/
theorem startPower_on (guard : (p.station i).fx.levels.guard = true) :
    p.startPower i t =
      let u := (p.station i).ps.powerOn n p.rackTime
      let q := (p.setPs i fun _ => u).setLc i Line.supplyArrives
      if u.state = .on then (q, some (u.powerResult n.limited)) else (q.setWork i (.power n.limited), none) := by
  simp only [Part.startPower, h, state, nest, guard, ne_eq, not_true, if_false, Bool.true_eq_false]

end Take

/-- The numbers of a POWER ON taken by a supply, with the ramp that is to come (R76 to R78). -/
def Supply.load (u : Supply) (n : PowerNumbers) (now : Time) (v0 duration : Nat) (st : SupplyState) (v : Nat) :
    Supply :=
  { u with setpoint := n.setpoint, limit := n.limit, rampTime := n.rampTime, tripDelay := n.tripDelay
           rampDuration := duration, rampFrom := v0, rampElapsed := 0, rampStart := now, state := st
           commanded := v }

/-- A ramp without a duration stands at the setpoint at once (R77). -/
theorem powerOn_eq (u : Supply) (n : PowerNumbers) (now : Time) :
    let v0 := if u.live then u.commanded else 0
    let duration := rampMillis n.rampTime v0 n.setpoint
    u.powerOn n now =
      u.load n now v0 duration (if duration = 0 then .on else .ramping) (if duration = 0 then n.setpoint else v0) :=
  rfl

/-- The ramp of a POWER ON out of OFF lasts its ramp time (R78). -/
theorem rampMillis_fromZero (rampTime : Nat) {vs : Nat} (h : 0 < vs) : rampMillis rampTime 0 vs = rampTime := by
  rw [rampMillis, if_pos (Nat.zero_le _), Nat.sub_zero, roundNat,
    show 2 * (rampTime * vs) + vs = vs + rampTime * (2 * vs) by ring, Nat.add_mul_div_right _ _ (by omega),
    Nat.div_eq_of_lt (by omega), Nat.zero_add]

/-- The line leaves DORMANT with the supply, and stands otherwise (R113). -/
theorem setLc_supplyArrives (p : Part) (i : StationId) :
    p.setLc i Line.supplyArrives =
      if (p.station i).lc.state = .dormant then p.setLc i fun l => { l with state := .quiet } else p := by
  split
  · rename_i dormant
    refine modify_congr p i _ _ ?_
    simp only [Line.supplyArrives, dormant]
  · rename_i awake
    refine modify_same p i _ ?_
    have stands : (p.station i).lc.supplyArrives = (p.station i).lc := by
      unfold Line.supplyArrives
      split
      · rename_i dormant
        exact absurd dormant awake
      all_goals rfl
    rw [stands]

/-- The part with a POWER ON's numbers taken: the supply loaded, and a DORMANT line QUIET. -/
def Part.powered (p : Part) (i : StationId) (n : PowerNumbers) (v0 duration : Nat) (st : SupplyState) (v : Nat) : Part :=
  let q := p.setPs i fun u => u.load n p.rackTime v0 duration st v
  if (p.station i).lc.state = .dormant then q.setLc i fun l => { l with state := .quiet } else q

theorem powered_eq (p : Part) (i : StationId) (n : PowerNumbers) (v0 duration : Nat) (st : SupplyState) (v : Nat) :
    (p.setPs i fun _ => (p.station i).ps.load n p.rackTime v0 duration st v).setLc i Line.supplyArrives =
      p.powered i n v0 duration st v := by
  have taken : (p.setPs i fun _ => (p.station i).ps.load n p.rackTime v0 duration st v) =
      p.setPs i fun u => u.load n p.rackTime v0 duration st v := modify_congr p i _ _ rfl
  rw [taken, setLc_supplyArrives, setPs_station_same]
  rfl

section PowerOn
variable {p : Part} {i : StationId} {t : Step} {n : PowerNumbers} {v0 : Nat}
  (h : powerParams t.params = some (some n)) (holds : (p.station i).fx.Holds)
  (start : v0 = if (p.station i).ps.live then (p.station i).ps.commanded else 0)
include h holds start

/-- A POWER ON whose ramp lasts 0 ms ends at once with the supply ON (R77). -/
theorem startPower_atOnce (atOnce : rampMillis n.rampTime v0 n.setpoint = 0) :
    p.startPower i t =
      (p.powered i n v0 (rampMillis n.rampTime v0 n.setpoint) .on n.setpoint,
       some (.done (flagIf n.limited resLimited) n.setpoint 0)) := by
  have loaded := powerOn_eq (p.station i).ps n p.rackTime
  simp only [← start, atOnce, if_true] at loaded
  rw [startPower_on h holds.state holds.nest holds.guard, loaded, atOnce, ← powered_eq]
  rfl

/-- Any other ramps, and waits for the ramp's end. -/
theorem startPower_ramps (lasts : rampMillis n.rampTime v0 n.setpoint ≠ 0) :
    p.startPower i t =
      ((p.powered i n v0 (rampMillis n.rampTime v0 n.setpoint) .ramping v0).setWork i (.power n.limited), none) := by
  have loaded := powerOn_eq (p.station i).ps n p.rackTime
  simp only [← start, lasts, if_false] at loaded
  rw [startPower_on h holds.state holds.nest holds.guard, loaded, ← powered_eq]
  rfl

end PowerOn

/-! ### Ramp steps (R78) -/

theorem rampStep_goes {u : Supply} (h : u.rampElapsed + 1 < u.rampDuration) :
    u.rampStep =
      { u with rampElapsed := u.rampElapsed + 1
               commanded := rampOutput u.rampFrom u.setpoint (u.rampElapsed + 1) u.rampDuration } := if_pos h

theorem rampStep_lands {u : Supply} (h : u.rampElapsed + 1 = u.rampDuration) :
    u.rampStep = { u with rampElapsed := u.rampDuration, commanded := u.setpoint, state := .on } := by
  rw [Supply.rampStep, if_neg (by omega), h]

section Events
variable {p : Part} {i : StationId} (state : (p.station i).ps.state = .ramping)
  (due : (p.station i).ps.rampElapsed + 1 ≤ p.since (p.station i).ps.rampStart)
include state due

theorem supplyStep_goes (before : (p.station i).ps.rampElapsed + 1 < (p.station i).ps.rampDuration) :
    p.supplyStep i = p.setPs i fun u =>
      { u with rampElapsed := u.rampElapsed + 1
               commanded := rampOutput u.rampFrom u.setpoint (u.rampElapsed + 1) u.rampDuration } := by
  have ready : (p.station i).ps.state = .ramping ∧ p.supplyStepDue (p.station i).ps = true :=
    ⟨state, decide_eq_true due⟩
  have goes := rampStep_goes before
  have stays : (p.station i).ps.rampStep.state = .ramping := by rw [goes]; exact state
  unfold Part.supplyStep
  dsimp only
  rw [if_pos ready, stays]
  exact modify_congr p i _ _ (by rw [goes])

/-- The last step of a ramp makes the supply ON at its setpoint and completes the POWER ON. -/
theorem supplyStep_lands {t : Step} {limited : Bool}
    (last : (p.station i).ps.rampElapsed + 1 = (p.station i).ps.rampDuration) (works : p.Works i t (.power limited)) :
    p.supplyStep i =
      (p.setPs i fun u =>
        { u with rampElapsed := u.rampDuration, commanded := u.setpoint, state := .on }).completeStep i
        (.done (flagIf limited resLimited) (p.station i).ps.setpoint (p.station i).ps.rampDuration) := by
  have ready : (p.station i).ps.state = .ramping ∧ p.supplyStepDue (p.station i).ps = true :=
    ⟨state, decide_eq_true due⟩
  have working : ∀ f, ((p.setPs i f).station i).walker = (p.station i).walker := fun f => by rw [setPs_station_same]
  have stepped : (p.setPs i fun _ => (p.station i).ps.rampStep) = p.setPs i fun u =>
      { u with rampElapsed := u.rampDuration, commanded := u.setpoint, state := .on } :=
    modify_congr p i _ _ (by rw [rampStep_lands last])
  unfold Part.supplyStep
  dsimp only
  rw [if_pos ready, stepped, rampStep_lands last, working, work_works p i t _ works]
  exact finish_step _ _ _ ((congrArg Walker.rerun (working _)).trans works.1)

end Events

/-- Settles O42: the numbers of a POWER, its take by the checks it meets, the steps of a ramp, a sample, a trip, and the
straight line a ramp's output rounds. -/
theorem supplyFollowsItsEvents : Obligations.SupplyFollowsItsEvents := by
  refine ⟨fun q m => powerParams_iff q m,
    fun p i t kind => ⟨fun bad => ?_, fun off => ⟨fun already => ?_, fun on => ?_⟩⟩,
    fun p i t n kind numbers => ⟨powerParams_ranges numbers, fun state => ?_, fun state nest => ?_,
      fun state nest guard => ?_, fun state nest guard supply => ?_⟩,
    fun s i hr ramp => ?_, fun s i t limited hr works ramp => ?_, fun s i mA mV held hr live => ?_,
    fun s i hr live due => ?_, fun v0 vs t k ht hk =>
      ⟨rampOutput_zero ht, rampOutput_full ht, rampOutput_rises ht hk, rampOutput_falls ht hk⟩⟩
  · exact (startStep_power kind).trans (startPower_bad bad)
  · exact (startStep_power kind).trans (startPower_offAlready off already)
  · exact (startStep_power kind).trans (startPower_off off on)
  · exact (startStep_power kind).trans (startPower_notClamped numbers state)
  · exact (startStep_power kind).trans (startPower_noPart numbers state nest)
  · exact (startStep_power kind).trans (startPower_interlock numbers state nest guard)
  · have start : (if (p.station i).ps.state = .off then 0 else (p.station i).ps.commanded) =
        if (p.station i).ps.live then (p.station i).ps.commanded else 0 := by
      obtain off | ⟨on, -⟩ := supply
      · simp [Supply.live, off]
      · simp [Supply.live, on]
    have holds : (p.station i).fx.Holds := ⟨state, nest, guard⟩
    refine ⟨fun off => ?_, fun atOnce => ?_, fun ramps => ?_⟩
    · have setpoint := (powerParams_ranges numbers).1
      rw [if_pos off]
      exact rampMillis_fromZero n.rampTime (by omega)
    · refine (startStep_power kind).trans ((startPower_atOnce numbers holds start atOnce).trans ?_)
      rfl
    · exact (startStep_power kind).trans (startPower_ramps numbers holds start ramps)
  · obtain ⟨state, due, before⟩ := ramp
    exact answers_event (fun p => p.supplyStep i) rfl hr (supplyStep_goes state due before)
  · obtain ⟨state, due, last⟩ := ramp
    exact answers_event (fun p => p.supplyStep i) rfl hr (supplyStep_lands state due last works)
  · exact answers_event (fun p => p.monitorSample i mA.toNat mV.toNat held) rfl hr (if_pos live)
  · exact answers_event (fun p => p.trip i) rfl hr (if_pos (by rw [live, due]; rfl))

end Sys2Proof.Machine
end

section
/-! A SET of the digital lines and of a message value (R100, R101), and the counts of a frequency and a duty (R90,
R91). -/

namespace Sys2Proof.Machine

/-! ### DL and MV SETs -/

theorem startStep_set {p : Part} {i : StationId} {t : Step} (kind : Kind.ofCode t.kind = some .set) :
    p.startStep i t = p.startSet i t := by
  simp only [Part.startStep, kind]

section Take
variable {p : Part} {i : StationId} {t : Step} (live : (p.station i).ps.live = true)
include live

theorem startSet_dl {mask bits : BitVec 16} (h : setParams t.params = some (.dl mask bits)) :
    p.startSet i t =
      (p.setSt i fun st => { st with dl := dlAfter (p.station i).st.dl mask bits },
       some (.done 0 (dlAfter (p.station i).st.dl mask bits).toNat mask.toNat)) := by
  simp only [Part.startSet, h, live, Bool.true_eq_false, if_false]

theorem startSet_mv {k : Fin 8} {v : BitVec 16} (h : setParams t.params = some (.mv k v)) :
    p.startSet i t = (p.setSt i fun st => { st with mv := put st.mv k v }, some (.done 0 v.toInt 0)) := by
  simp only [Part.startSet, h, live, Bool.true_eq_false, if_false]

end Take

theorem dlAfter_getLsbD (lines mask bits : BitVec 16) {k : Nat} (hk : k < 16) :
    (dlAfter lines mask bits).getLsbD k = if mask.getLsbD k = true then bits.getLsbD k else lines.getLsbD k := by
  rw [dlAfter, BitVec.getLsbD_or, BitVec.getLsbD_and, BitVec.getLsbD_and, BitVec.getLsbD_not]
  cases mask.getLsbD k <;> simp [-BitVec.getLsbD_eq_getElem, hk]

theorem dlAfter_zero (lines bits : BitVec 16) : dlAfter lines 0 bits = lines :=
  BitVec.eq_of_getLsbD_eq fun k hk => by
    rw [dlAfter_getLsbD _ _ _ hk, if_neg (by simp)]

/-- Settles O33: both classes write and complete in the event of their take; the masked lines are told bit by bit. -/
theorem discreteLinesAreSet : Obligations.DiscreteLinesAreSet := by
  refine ⟨fun p i t mask bits kind params live => ?_, fun p i t k v kind params live => ?_⟩
  · refine ⟨dlAfter (p.station i).st.dl mask bits, ?_, fun k hk => dlAfter_getLsbD _ _ _ hk, ?_⟩
    · exact (startStep_set kind).trans (startSet_dl live params)
    · rintro rfl
      exact dlAfter_zero _ _
  · exact (startStep_set kind).trans (startSet_mv live params)

/-! ### Rounding and clamping -/

/-- A quotient rounded half up is at least `n` from `n - 1/2` on. -/
theorem le_roundNat_iff {num den n : Nat} (hd : 0 < den) (hn : 1 ≤ n) :
    n ≤ roundNat num den ↔ (2 * n - 1) * den ≤ 2 * num := by
  have split : n * (2 * den) = (2 * n - 1) * den + den := by
    obtain ⟨m, rfl⟩ : ∃ m, n = m + 1 := ⟨n - 1, by omega⟩
    rw [show 2 * (m + 1) - 1 = 2 * m + 1 by omega]
    ring
  rw [roundNat, Nat.le_div_iff_mul_le (by omega), split]
  omega

/-- A quotient rounded half up is below `n` before `n - 1/2`. -/
theorem roundNat_lt_iff {num den n : Nat} (hd : 0 < den) (hn : 1 ≤ n) :
    roundNat num den < n ↔ 2 * num < (2 * n - 1) * den := by
  rw [← not_le, le_roundNat_iff hd hn, not_le]

/-- The whole number within a half of a quotient is the quotient rounded half up. -/
theorem roundNat_eq {num den n : Nat} (hd : 0 < den) (hn : 1 ≤ n) (low : (2 * n - 1) * den ≤ 2 * num)
    (high : 2 * num < (2 * n + 1) * den) : roundNat num den = n := by
  have above := (le_roundNat_iff hd hn).mpr low
  have below := (roundNat_lt_iff (num := num) (n := n + 1) hd (by omega)).mpr
    (by rwa [show 2 * (n + 1) - 1 = 2 * n + 1 by omega])
  omega

theorem clampNat_of_within {low high v : Nat} (hl : low ≤ v) (hh : v ≤ high) : clampNat low high v = v :=
  not_not.mp fun moved => by
    obtain below | above := (clampNat_ne_iff low high v).mp moved <;> omega

theorem clampNat_of_le {low high v : Nat} (hl : v ≤ low) (hr : low ≤ high) : clampNat low high v = low := by
  unfold clampNat
  split
  · rfl
  · rw [if_neg (by omega)]
    omega

theorem clampNat_of_ge {low high v : Nat} (hh : high ≤ v) (hr : low ≤ high) : clampNat low high v = high := by
  unfold clampNat
  split
  · omega
  · split <;> omega

/-! ### The counts of a setting (R90, R91) -/

/-- The period a generator runs at a frequency that is not 0. -/
def periodOf (f : Nat) : Nat := clampNat 500 40000000 (roundNat tickScale f)

theorem periodOf_range (f : Nat) : 500 ≤ periodOf f ∧ periodOf f ≤ 40000000 := clampNat_within (by decide) _

/-- The high count of a period and a duty. -/
def highOf (period duty : Nat) : Nat := clampNat 1 (period - 1) (roundNat (period * duty) 1000)

theorem highOf_range {period : Nat} (h : 2 ≤ period) (duty : Nat) :
    1 ≤ highOf period duty ∧ highOf period duty ≤ period - 1 := clampNat_within (by omega) _

theorem countsOf_pos {f : Nat} (hf : f ≠ 0) (duty : Nat) (idle : Bool) :
    countsOf f duty idle = ⟨periodOf f, highOf (periodOf f) duty, idle⟩ := by
  simp only [countsOf, rawPeriod, if_neg hf]
  rfl

/-- The counts of any setting are lawful. -/
theorem countsOf_lawful (f duty : Nat) (idle : Bool) : (countsOf f duty idle).lawful := by
  by_cases hf : f = 0
  · subst hf
    exact .inl ⟨rfl, rfl⟩
  · obtain ⟨low, high⟩ := periodOf_range f
    rw [countsOf_pos hf]
    exact .inr ⟨low, high, highOf_range (by omega) duty⟩

section Rounding
variable {f : Nat} (hf : 0 < f)
include hf

theorem periodOf_eq {n : Nat} (hl : 500 ≤ n) (hh : n ≤ 40000000) (low : (2 * n - 1) * f ≤ 2 * tickScale)
    (high : 2 * tickScale < (2 * n + 1) * f) : periodOf f = n := by
  rw [periodOf, roundNat_eq hf (by omega) low high, clampNat_of_within hl hh]

/-- A frequency above the range: its period rounds to less than 500. -/
theorem roundNat_lt_shortest_iff : roundNat tickScale f < 500 ↔ 2 * tickScale < 999 * f :=
  roundNat_lt_iff hf (by decide)

/-- A frequency below the range: its period rounds to more than 40,000,000. -/
theorem longest_lt_roundNat_iff : 40000000 < roundNat tickScale f ↔ 80000001 * f ≤ 2 * tickScale :=
  le_roundNat_iff (n := 40000001) hf (by decide)

theorem periodOf_shortest (h : 2 * tickScale < 999 * f) : periodOf f = 500 :=
  clampNat_of_le ((roundNat_lt_shortest_iff hf).mpr h).le (by decide)

theorem periodOf_longest (h : 80000001 * f ≤ 2 * tickScale) : periodOf f = 40000000 :=
  clampNat_of_ge ((longest_lt_roundNat_iff hf).mpr h).le (by decide)

/-- A frequency out of range is replaced by the one of its clamped period. -/
theorem clampFrequency_pos :
    clampFrequency f =
      if 2 * tickScale < 999 * f then (20000000, true)
      else if 80000001 * f ≤ 2 * tickScale then (250, true)
      else (f, false) := by
  simp only [clampFrequency, rawPeriod, if_neg hf.ne', roundNat_lt_shortest_iff hf, longest_lt_roundNat_iff hf]

end Rounding

section High
variable {period duty : Nat}

theorem highOf_eq {n : Nat} (hl : 1 ≤ n) (hh : n ≤ period - 1) (low : (2 * n - 1) * 1000 ≤ 2 * (period * duty))
    (high : 2 * (period * duty) < (2 * n + 1) * 1000) : highOf period duty = n := by
  rw [highOf, roundNat_eq (by decide) hl low high, clampNat_of_within hl hh]

theorem highOf_most (hp : 2 ≤ period) (h : (2 * period - 1) * 1000 ≤ 2 * (period * duty)) :
    highOf period duty = period - 1 := by
  have rounds := (le_roundNat_iff (num := period * duty) (by decide) (by omega : 1 ≤ period)).mpr h
  exact clampNat_of_ge (by omega) (by omega)

theorem highOf_least (hp : 2 ≤ period) (h : 2 * (period * duty) < 1000) : highOf period duty = 1 := by
  have rounds := (roundNat_lt_iff (num := period * duty) (den := 1000) (by decide) le_rfl).mpr (by omega)
  exact clampNat_of_le (by omega) (by omega)

end High

end Sys2Proof.Machine
end

section
/-! What the part does to its pulse generators. A generator is parked, halted, stepped along its ramp, given a SET, and
at a period boundary its pending counts. This section names these moves and shows which operations of the part leave
the stimulus units. -/

namespace Sys2Proof.Machine

/-! ### Moves of a generator -/

/-- What becomes of a generator. -/
inductive PulseGen.Moves : PulseGen → PulseGen → Prop where
  | refl (g : PulseGen) : Moves g g
  | trans {a b c : PulseGen} : Moves a b → Moves b c → Moves a c
  | park (g : PulseGen) : Moves g .park
  | halt (g : PulseGen) : Moves g g.halt
  | set (g : PulseGen) (now : Time) (mHz duty : Nat) (idle : Bool) (rate : Nat) (start : Option Nat) :
      Moves g (g.set now mHz duty idle rate start).1
  | step (g : PulseGen) (r : Ramp) : Moves g (g.step r).1
  | boundary (g : PulseGen) : Moves g g.boundary

/-- Every generator of a unit moves. -/
def Stimulus.PulsesMove (s t : Stimulus) : Prop := ∀ k : Fin 4, s.pg[k].Moves t.pg[k]

section Units
variable (s : Stimulus)

theorem Stimulus.PulsesMove.refl : s.PulsesMove s := fun _ => .refl _

theorem Stimulus.PulsesMove.trans {s t u : Stimulus} (h : s.PulsesMove t) (h' : t.PulsesMove u) : s.PulsesMove u :=
  fun k => (h k).trans (h' k)

theorem Stimulus.put_pulses (k : Fin 4) {g : PulseGen} (h : s.pg[k].Moves g) :
    s.PulsesMove { s with pg := put s.pg k g } := fun j => by
  by_cases hj : k = j
  · subst hj
    simpa using h
  · simpa [hj] using PulseGen.Moves.refl _

theorem Stimulus.park_pulses : s.PulsesMove .park := fun k => by
  simpa [Stimulus.park] using PulseGen.Moves.park _

theorem Stimulus.halt_pulses : s.PulsesMove s.halt := fun k => by
  simpa [Stimulus.halt] using PulseGen.Moves.halt _

theorem Stimulus.haltChannel_pulses (c : RampChannel) : s.PulsesMove (s.haltChannel c) := by
  cases c with
  | pg k => exact s.put_pulses k (.halt _)
  | lv => exact .refl s

theorem Stimulus.stepRamp_pulses (c : RampChannel) (r : Ramp) : s.PulsesMove (s.stepRamp c r).1 := by
  cases c with
  | pg k => exact s.put_pulses k (.step _ r)
  | lv => exact .refl s

end Units

/-! ### The stimulus units of the part -/

/-- The stimulus units in the station columns. -/
def stimuliOf (v : Vector Station 4) (i : StationId) : Stimulus := v[i].st

section Columns
variable (p : Part) (i : StationId)

/-- A change of a station column that leaves its stimulus. -/
theorem modify_stimuli {f : Station → Station} (h : (f (p.station i)).st = (p.station i).st) :
    stimuliOf (p.modify i f).stations = stimuliOf p.stations := by
  funext j
  show ((p.modify i f).station j).st = (p.station j).st
  by_cases hj : i = j
  · subst hj
    rw [modify_station_same, h]
  · rw [modify_station_other _ _ _ _ hj]

@[simp] theorem setWalker_stimuli (f : Walker → Walker) :
    stimuliOf (p.setWalker i f).stations = stimuliOf p.stations := modify_stimuli p i rfl
@[simp] theorem setFx_stimuli (f : Fixture → Fixture) :
    stimuliOf (p.setFx i f).stations = stimuliOf p.stations := modify_stimuli p i rfl
@[simp] theorem setPs_stimuli (f : Supply → Supply) :
    stimuliOf (p.setPs i f).stations = stimuliOf p.stations := modify_stimuli p i rfl
@[simp] theorem setLc_stimuli (f : Line → Line) :
    stimuliOf (p.setLc i f).stations = stimuliOf p.stations := modify_stimuli p i rfl
@[simp] theorem setAq_stimuli (f : Monitors → Monitors) :
    stimuliOf (p.setAq i f).stations = stimuliOf p.stations := modify_stimuli p i rfl
@[simp] theorem setWork_stimuli (k : Work) :
    stimuliOf (p.setWork i k).stations = stimuliOf p.stations := modify_stimuli p i rfl
@[simp] theorem setRun_stimuli (f : RunRecord → RunRecord) :
    stimuliOf (p.setRun i f).stations = stimuliOf p.stations := modify_stimuli p i rfl
@[simp] theorem setStationState_stimuli (st : StationState) :
    stimuliOf (p.setStationState i st).stations = stimuliOf p.stations := modify_stimuli p i rfl
@[simp] theorem setFrame_stimuli (f : Frame) :
    stimuliOf (p.setFrame i f).stations = stimuliOf p.stations := modify_stimuli p i rfl

/-- An operation that leaves the stimulus units, carried out once for each thing of a list. -/
theorem foldl_stimuli {α : Type} {f : Part → α → Part}
    (h : ∀ q a, stimuliOf (f q a).stations = stimuliOf q.stations) (l : List α) :
    stimuliOf (l.foldl f p).stations = stimuliOf p.stations := by
  induction l generalizing p with
  | nil => rfl
  | cons a l ih => rw [List.foldl_cons, ih, h]

end Columns

/-! ### Operations that leave the stimulus units -/

section Line
variable (p : Part) (i : StationId)

@[simp] theorem overrun_stimuli (e : Fin 16) : stimuliOf (p.overrun i e).stations = stimuliOf p.stations := by
  simp [Part.overrun, Part.writeReceptionOverrun]

@[simp] theorem joinDue_stimuli (e : Fin 16) (key : Time) :
    stimuliOf (p.joinDue i e key).stations = stimuliOf p.stations := by
  unfold Part.joinDue
  split <;> simp

@[simp] theorem fallDue_stimuli (e : Fin 16) : stimuliOf (p.fallDue i e).stations = stimuliOf p.stations := by
  unfold Part.fallDue
  dsimp only
  split <;> simp

@[simp] theorem startFrame_stimuli : stimuliOf (p.startFrame i).stations = stimuliOf p.stations := by
  unfold Part.startFrame
  dsimp only
  split <;> simp

@[simp] theorem loadSchedule_stimuli (t : Vector Entry 16) :
    stimuliOf (p.loadSchedule i t).stations = stimuliOf p.stations := by
  have due : ∀ q : Part, stimuliOf (q.fallDueAll i).stations = stimuliOf q.stations := fun q => by
    refine foldl_stimuli q (fun q e => ?_) _
    split <;> simp
  simp [Part.loadSchedule, due]

@[simp] theorem endFrameRecord_stimuli (f : Frame) (result : FrameResult) :
    stimuliOf (p.endFrameRecord i f result).stations = stimuliOf p.stations := by
  unfold Part.endFrameRecord Part.recordFrame
  split <;> split <;> simp [Part.writeReceptionData, Part.writeReceptionTime, Part.writeReceptionCounts,
    Part.writeReceptionState, Part.writeReceptionSequence]

@[simp] theorem afterFrame_stimuli : stimuliOf (p.afterFrame i).stations = stimuliOf p.stations := by
  unfold Part.afterFrame
  dsimp only
  split
  · simp
  · split <;> simp

end Line

section Units
variable (p : Part) (i : StationId)

@[simp] theorem endCheck_stations (r : RefCheck) : (p.endCheck r).stations = p.stations := by
  unfold Part.endCheck
  dsimp only
  split <;> rfl

@[simp] theorem writeInputs_stimuli : stimuliOf (p.writeInputs i).stations = stimuliOf p.stations := by
  unfold Part.writeInputs
  rw [setAq_stimuli]
  refine foldl_stimuli p (fun q k => ?_) _
  split <;> rfl

@[simp] theorem updateLamp_stimuli (column : Fin 8) (reading : Byte) :
    stimuliOf (p.updateLamp i column reading).stations = stimuliOf p.stations := by
  have written : ∀ (q : Part) k c, (q.writeLamp i k c).stations = q.stations := fun _ _ _ => rfl
  unfold Part.updateLamp
  dsimp only
  repeat' split
  all_goals simp [written]

@[simp] theorem startPin_stimuli (c : Calibration) (pin : Nat) :
    stimuliOf (p.startPin i c pin).stations = stimuliOf p.stations := by
  simp [Part.startPin]

end Units

section Attempts
variable (p : Part) (i : StationId)

@[simp] theorem settleLoop_stimuli (w : MeasureWork) (traced : Bool) (a : Attempt) :
    stimuliOf (p.settleLoop i w traced a).1.stations = stimuliOf p.stations := by
  have appended : ∀ v, stimuliOf (p.traceAppend i v).stations = stimuliOf p.stations := fun v => by
    unfold Part.traceAppend
    dsimp only
    split <;> simp
  cases traced <;> simp [Part.settleLoop, appended]

@[simp] theorem startAttempt_stimuli (w : MeasureWork) (traced : Bool) :
    stimuliOf (p.startAttempt i w traced).1.stations = stimuliOf p.stations := by
  have begun : ∀ w, stimuliOf (p.beginGathering i w).stations = stimuliOf p.stations := fun w => by
    unfold Part.beginGathering
    split <;> simp
  unfold Part.startAttempt
  dsimp only
  split <;> simp [begun]

@[simp] theorem arrive_stimuli (w : MeasureWork) (traced : Bool) (a : Attempt) :
    stimuliOf (p.arrive i w traced a).1.stations = stimuliOf p.stations := by
  have settled := settleLoop_stimuli p i w traced a
  unfold Part.arrive
  split <;> rename_i e <;> rw [e] at settled
  · exact settled
  · split
    · split
      · rw [startAttempt_stimuli, settled]
      · exact settled
    · exact settled

end Attempts

section Walker
variable (p : Part) (i : StationId)

@[simp] theorem writeResult_stations (t : Step) (r : Result) : (p.writeResult i t r).stations = p.stations := rfl

@[simp] theorem writeOpening_stations (c : CellId) (run seq : BitVec 16) :
    (p.writeOpening i c run seq).stations = p.stations := rfl

@[simp] theorem abandonCell_stations (t : Step) (r : Result) : (p.abandonCell i t r).stations = p.stations := rfl

@[simp] theorem notify_stations (t : Step) : (p.notify i t).stations = p.stations := by
  unfold Part.notify
  split <;> rfl

@[simp] theorem enterStopped_stimuli (r : Reason) :
    stimuliOf (p.enterStopped i r).stations = stimuliOf p.stations := by
  simp [Part.enterStopped]

@[simp] theorem becomeIdle_stimuli : stimuliOf (p.becomeIdle i).stations = stimuliOf p.stations := by
  simp [Part.becomeIdle]

@[simp] theorem takeStep_stimuli : stimuliOf (p.takeStep i).1.stations = stimuliOf p.stations := by
  simp [Part.takeStep]

@[simp] theorem beginWait_stimuli (t : Step) : stimuliOf (p.beginWait i t).stations = stimuliOf p.stations := by
  simp [Part.beginWait]

@[simp] theorem endWait_stimuli (t : Step) : stimuliOf (p.endWait i t).stations = stimuliOf p.stations := by
  simp [Part.endWait]

@[simp] theorem closeRun_stimuli : stimuliOf (p.closeRun i).stations = stimuliOf p.stations := by
  unfold Part.closeRun
  split <;> simp

@[simp] theorem completeMain_stimuli (t : Step) (r : Result) :
    stimuliOf (p.completeMain i t r).stations = stimuliOf p.stations := by
  simp [Part.completeMain]

@[simp] theorem rerunEnd_stimuli (t : Step) (r : Result) :
    stimuliOf (p.rerunEnd i t r).stations = stimuliOf p.stations := by
  simp [Part.rerunEnd, (changePrompt_only _ _ _).stations]

end Walker

section Starts
variable (p : Part) (i : StationId) (t : Step)

@[simp] theorem startBegin_stimuli : stimuliOf (p.startBegin i t).1.stations = stimuliOf p.stations := by
  unfold Part.startBegin
  dsimp only
  repeat' split
  all_goals simp [Part.passing]

@[simp] theorem beginRelease_stimuli : stimuliOf (p.beginRelease i).1.stations = stimuliOf p.stations := by
  unfold Part.beginRelease
  split <;> simp

@[simp] theorem startEnd_stimuli : stimuliOf (p.startEnd i t).1.stations = stimuliOf p.stations := by
  have released : ∀ (q q' : Part) b, q.beginRelease i = (q', b) → stimuliOf q'.stations = stimuliOf q.stations :=
    fun q q' b e => by rw [← beginRelease_stimuli q i, e]
  unfold Part.startEnd
  dsimp only
  split
  · split
    · split
      · split <;> rename_i e <;> simp [released _ _ _ e]
      · simp
    · simp
  · rfl

@[simp] theorem startRelease_stimuli : stimuliOf (p.startRelease i t).1.stations = stimuliOf p.stations := by
  have released := beginRelease_stimuli p i
  unfold Part.startRelease
  split
  · split <;> rename_i e <;> rw [e] at released <;> simpa using released
  · rfl

@[simp] theorem startWait_stimuli : stimuliOf (p.startWait i t).1.stations = stimuliOf p.stations := by
  unfold Part.startWait
  split <;> simp

@[simp] theorem startClamp_stimuli : stimuliOf (p.startClamp i t).1.stations = stimuliOf p.stations := by
  unfold Part.startClamp
  dsimp only
  repeat' split
  all_goals simp

@[simp] theorem startContact_stimuli : stimuliOf (p.startContact i).1.stations = stimuliOf p.stations := by
  unfold Part.startContact
  dsimp only
  repeat' split
  all_goals simp [Part.clearContacts]

@[simp] theorem startSend_stimuli : stimuliOf (p.startSend i t).1.stations = stimuliOf p.stations := by
  unfold Part.startSend Part.sendStart Part.sendStop Part.sendOnce
  dsimp only
  repeat' split
  all_goals simp

@[simp] theorem admitMeasure_stimuli (q : MeasureParams) :
    stimuliOf (p.admitMeasure i t q).1.stations = stimuliOf p.stations := by
  unfold Part.admitMeasure
  dsimp only
  repeat' split
  all_goals simp

@[simp] theorem startMeasure_stimuli : stimuliOf (p.startMeasure i t).1.stations = stimuliOf p.stations := by
  unfold Part.startMeasure
  split <;> simp

@[simp] theorem startListen_stimuli : stimuliOf (p.startListen i t).1.stations = stimuliOf p.stations := by
  unfold Part.startListen
  dsimp only
  repeat' split
  all_goals simp

@[simp] theorem startPrompt_stimuli : stimuliOf (p.startPrompt i t).1.stations = stimuliOf p.stations := by
  unfold Part.startPrompt
  split <;> simp [(placeEntry_only _ _).stations]

@[simp] theorem workSet_stimuli (atOnce : Bool) (w : SetWork) :
    stimuliOf (p.workSet i t atOnce w).1.stations = stimuliOf p.stations := by
  unfold Part.workSet
  split <;> simp

end Starts

end Sys2Proof.Machine
end

section
/-! What the walker does to the pulse generators: the start of a step gives one a SET, an abandonment and a halt stop
its ramp, and a cut supply parks it. -/

namespace Sys2Proof.Machine

/-! ### Moves of the part's generators -/

/-- Every generator of the part moves. -/
def Part.PulsesMove (p q : Part) : Prop := ∀ i, (stimuliOf p.stations i).PulsesMove (stimuliOf q.stations i)

namespace Part.PulsesMove

variable {p q r : Part}

theorem refl (p : Part) : p.PulsesMove p := fun _ => .refl _

theorem trans (h : p.PulsesMove q) (h' : q.PulsesMove r) : p.PulsesMove r := fun i => (h i).trans (h' i)

/-- An operation that leaves the stimulus units, after others. -/
theorem leaves (h : p.PulsesMove q) (e : stimuliOf r.stations = stimuliOf q.stations) : p.PulsesMove r := fun i => by
  rw [e]
  exact h i

theorem of_stimuli (e : stimuliOf q.stations = stimuliOf p.stations) : p.PulsesMove q := (refl p).leaves e

/-- What follows an operation that leaves the stimulus units. -/
theorem after (h : q.PulsesMove r) (e : stimuliOf q.stations = stimuliOf p.stations) : p.PulsesMove r :=
  (of_stimuli e).trans h

theorem panel (h : p.PulsesMove q) (e : PanelOnly q r) : p.PulsesMove r := h.leaves (by rw [e.stations])

/-- A change of a station column that moves its generators. -/
theorem modify (h : p.PulsesMove q) (i : StationId) {f : Station → Station}
    (hf : (q.station i).st.PulsesMove (f (q.station i)).st) : p.PulsesMove (q.modify i f) := h.trans fun j => by
  show (q.station j).st.PulsesMove ((q.modify i f).station j).st
  by_cases hj : i = j
  · subst hj
    rwa [modify_station_same]
  · rw [modify_station_other _ _ _ _ hj]
    exact .refl _

theorem setSt (h : p.PulsesMove q) (i : StationId) {f : Stimulus → Stimulus}
    (hf : (q.station i).st.PulsesMove (f (q.station i).st)) : p.PulsesMove (q.setSt i f) := h.modify i hf

end Part.PulsesMove

/-- An event carried to the stations in their order. -/
theorem eachStation_pulses {f : StationId → Part → Part} (p : Part) (hf : ∀ i (q : Part), q.PulsesMove (f i q)) :
    p.PulsesMove (p.eachStation f) := by
  have fold : ∀ (l : List StationId) (q : Part), q.PulsesMove (l.foldl (fun q i => f i q) q) := by
    intro l
    induction l with
    | nil => exact fun q => .refl q
    | cons i l ih => exact fun q => (hf i q).trans (ih _)
  exact fold stationIds p

/-! ### The supply, and the start of a step -/

section Starts
variable (p : Part) (i : StationId)

/-- The propagation of a cut parks the unit (R84). -/
theorem supplyLeave_pulses (dest : SupplyState) : p.PulsesMove (p.supplyLeave i dest) :=
  (Part.PulsesMove.refl p).modify i (Stimulus.park_pulses _)

theorem supplyOff_pulses : p.PulsesMove (p.supplyOff i) := by
  unfold Part.supplyOff
  split
  · exact .refl p
  · exact supplyLeave_pulses p i _

theorem startPower_pulses (t : Step) : p.PulsesMove (p.startPower i t).1 := by
  unfold Part.startPower
  dsimp only
  split
  · exact .refl p
  · exact supplyOff_pulses p i
  · repeat' split
    all_goals exact .of_stimuli (by simp)

theorem startSet_pulses (t : Step) : p.PulsesMove (p.startSet i t).1 := by
  have marked : ∀ f g, (p.station i).st.PulsesMove (g (p.station i).st) →
      p.PulsesMove ((p.passing i f).setSt i g) := fun f g moves =>
    (Part.PulsesMove.of_stimuli (q := p.passing i f) rfl).setSt i moves
  unfold Part.startSet
  dsimp only
  split
  · exact .refl p
  · split
    · exact .refl p
    · split
      · exact (marked _ _ (Stimulus.put_pulses _ _ (.set _ _ _ _ _ _ _))).leaves (workSet_stimuli _ i t _ _)
      · exact (marked _ _ (.refl _)).leaves (workSet_stimuli _ i t _ _)
      · dsimp only
        exact (Part.PulsesMove.refl p).setSt i (.refl _)
      · dsimp only
        exact (Part.PulsesMove.refl p).setSt i (.refl _)

theorem startStep_pulses (t : Step) : p.PulsesMove (p.startStep i t).1 := by
  unfold Part.startStep
  cases Kind.ofCode t.kind with
  | none => exact .refl p
  | some kind =>
    cases kind with dsimp only
    | power => exact startPower_pulses p i t
    | set => exact startSet_pulses p i t
    | _ => exact .of_stimuli (by simp)

end Starts

/-! ### The ends of a step -/

section Ends
variable (p : Part) (i : StationId)

theorem chain_pulses : p.PulsesMove (p.chain i) := by
  have examined : ∀ n (p : Part), p.PulsesMove (Part.examine n p i) := by
    intro n
    induction n with
    | zero => exact fun p => .of_stimuli (becomeIdle_stimuli p i)
    | succ n ih =>
      intro p
      have taken := (startStep_pulses _ i (p.takeStep i).2).after (takeStep_stimuli p i)
      unfold Part.examine
      dsimp only
      split
      · exact .of_stimuli (by simp)
      · split
        · split <;> rename_i e <;> rw [e] at taken
          · exact taken
          · split
            · exact taken.leaves (by simp)
            · exact (taken.leaves (by simp)).trans (ih _)
        · exact .of_stimuli (by simp)
  exact examined 33 p

theorem completeStep_pulses (r : Result) : p.PulsesMove (p.completeStep i r) := by
  unfold Part.completeStep
  split
  · exact .refl p
  · dsimp only
    split
    · exact .of_stimuli (by simp)
    · exact (chain_pulses _ i).after (by simp)

theorem finish_pulses (r : Result) : p.PulsesMove (p.finish i r) := by
  unfold Part.finish
  split
  · exact .of_stimuli (rerunEnd_stimuli p i _ r)
  · exact completeStep_pulses p i r

variable {p i} in
/-- The outcome of an operation is concluded. -/
theorem Part.PulsesMove.conclude {o : Part × Option Result} (h : p.PulsesMove o.1) :
    p.PulsesMove (Part.conclude i o) := by
  obtain ⟨q, _ | r⟩ := o
  · exact h
  · exact h.trans (finish_pulses q i r)

end Ends

/-! ### Abandonment and fault reports -/

section Abandonment
variable (p : Part) (i : StationId) (cause : AbandonCause)

/-- An abandoned SET halts its channel (R104). -/
theorem dropWork_pulses (k : Work) : p.PulsesMove (p.dropWork i k cause).1 := by
  unfold Part.dropWork
  cases k with dsimp only
  | set => exact (Part.PulsesMove.refl p).setSt i (Stimulus.haltChannel_pulses _ _)
  | prompt => exact (Part.PulsesMove.refl p).panel (withdrawPrompt_only p i _)
  | _ => exact .of_stimuli (by simp [Part.dropAcquisition])

theorem abandonRerun_pulses : p.PulsesMove (p.abandonRerun i cause) := by
  unfold Part.abandonRerun
  split
  · exact .refl p
  · rename_i t _
    exact (dropWork_pulses p i cause t.work).leaves (by simp)

theorem abandonStep_pulses : p.PulsesMove (p.abandonStep i cause) := by
  have rerun := abandonRerun_pulses p i cause
  unfold Part.abandonStep
  dsimp only
  split
  · exact rerun
  · rename_i t _
    exact (rerun.trans (dropWork_pulses _ i cause t.work)).leaves (by simp)

theorem faultReport_pulses (r : FaultReason) : p.PulsesMove (p.faultReport i r) := by
  have dropped := abandonStep_pulses p i (.fault r)
  unfold Part.faultReport
  split
  · exact .refl p
  · exact .of_stimuli rfl
  all_goals exact .panel (dropped.leaves (by simp)) (placeEntry_only _ _)

end Abandonment

/-! ### Halts, CLEAR, sweeps and re-runs -/

section Walker
variable (p : Part) (i : StationId)

theorem halt_pulses : p.PulsesMove (p.halt i) := by
  have stopped := (abandonStep_pulses p i .halted).leaves
    (setWalker_stimuli _ i fun w => { w with state := .stopped, holdReason := .halted })
  unfold Part.halt
  split
  · exact .refl p
  · exact .refl p
  · exact .refl p
  all_goals exact stopped.modify i (Stimulus.halt_pulses _)

theorem clear_pulses : p.PulsesMove (p.clear i) := by
  have cleared : ∀ faulted, p.PulsesMove (p.clearStation i faulted) := fun faulted => by
    have idle : p.PulsesMove (((p.supplyOff i).closeRun i).becomeIdle i) :=
      (supplyOff_pulses p i).leaves (by simp)
    cases faulted with
    | false => exact idle.trans (chain_pulses _ i)
    | true => exact (idle.panel (removeNotice_only _ i)).trans (chain_pulses _ i)
  unfold Part.clear
  split
  · exact .refl p
  · exact .refl p
  · exact .refl p
  · exact .refl p
  · exact cleared _
  · split
    · exact cleared _
    · exact .refl p

theorem sweep_pulses : p.PulsesMove p.sweep := by
  refine eachStation_pulses p fun j q => ?_
  split
  · exact chain_pulses q j
  · exact .refl q

theorem pressRepeat_pulses (e : PanelEntry) : p.PulsesMove (p.pressRepeat e) := by
  unfold Part.pressRepeat
  split
  · unfold Part.rerunTake
    exact .conclude ((startStep_pulses _ _ _).after (by simp [(changePrompt_only _ _ _).stations]))
  · exact .of_stimuli rfl

end Walker

end Sys2Proof.Machine
end

section
/-! Every event of the part moves its generators, and a reset parks them: what a step can do to a pulse generator. -/

namespace Sys2Proof.Machine

/-! ### Events of the acquisition unit -/

section Acquisition
variable (p : Part) (i : StationId)

theorem datum_pulses (g : Gathering) (refFlag : Bool) (judge : MeasureParams → Attempt) :
    p.PulsesMove (p.datum i g refFlag judge) := by
  unfold Part.datum
  split
  · split
    · exact .conclude (.of_stimuli (arrive_stimuli p i _ _ _))
    · exact .refl p
  · exact .refl p

theorem requestReturn_pulses (q : Request) : p.PulsesMove (p.requestReturn i q) := by
  unfold Part.requestReturn
  split
  · unfold Part.contactReturn
    split
    · dsimp only
      split
      · exact .of_stimuli (by simp [Part.writeContact])
      · exact (finish_pulses _ i _).after (by simp [Part.writeContact])
    · exact .refl p
  · exact datum_pulses p i _ _ _

theorem takeCode_pulses (x : SampleInput) (code : Nat) : p.PulsesMove (p.takeCode x code) := by
  unfold Part.takeCode
  split
  · split
    · exact .refl p
    · dsimp only
      split <;> exact .of_stimuli (by simp)
  · split
    · exact .refl p
    · dsimp only
      split
      · exact .of_stimuli (by simp)
      · exact (requestReturn_pulses _ _ _).after rfl

theorem sampleEnds_pulses (microvolts : Int) : p.PulsesMove (p.sampleEnds microvolts) := by
  unfold Part.sampleEnds
  split
  · exact .refl p
  · split
    · exact (takeCode_pulses p _ _).trans (.of_stimuli rfl)
    · exact .of_stimuli rfl

theorem inputEdge_pulses (k : Fin 8) (tick : Tick) : p.PulsesMove (p.inputEdge i k tick) := by
  have closes : ∀ (q : Part) n closed, q.PulsesMove (q.meterCloses i n closed) := fun q n closed => by
    unfold Part.meterCloses
    split
    · exact .refl q
    · exact (datum_pulses _ i _ _ _).after rfl
  unfold Part.inputEdge
  split
  · exact .refl p
  · dsimp only [meterIds, List.foldl]
    exact ((Part.PulsesMove.of_stimuli (setAq_stimuli p i _)).trans (closes _ _ _)).trans (closes _ _ _)

theorem inputReject_pulses (k : Fin 8) : p.PulsesMove (p.inputReject i k) := by
  unfold Part.inputReject
  split <;> exact .of_stimuli (by simp)

theorem windowEnds_pulses : p.PulsesMove (p.windowEnds i) := by
  unfold Part.windowEnds
  split
  · split
    · exact (datum_pulses _ i _ _ _).after (setAq_stimuli p i _)
    · exact .refl p
  · exact .refl p

theorem meterExpires_pulses (n : Fin 2) : p.PulsesMove (p.meterExpires i n) := by
  unfold Part.meterExpires
  dsimp only
  split
  · exact (datum_pulses _ i _ _ _).after (by simp)
  · exact .refl p

theorem identityRead_pulses (identity : Byte) : p.PulsesMove (p.identityRead i identity) := by
  unfold Part.identityRead
  split
  · dsimp only
    split
    · split
      · exact .conclude (.of_stimuli (by simp))
      · exact .of_stimuli (by simp)
    · exact .of_stimuli (by simp)
  · exact .refl p

theorem rowUpdate_pulses (readings : Vector Byte 8) : p.PulsesMove (p.rowUpdate i readings) := by
  unfold Part.rowUpdate
  split
  · refine .of_stimuli ((setAq_stimuli _ i _).trans ?_)
    exact foldl_stimuli p (fun q c => updateLamp_stimuli q i c _) _
  · exact .refl p

end Acquisition

/-! ### Events of the fixture controllers -/

section Fixtures
variable (p : Part) (i : StationId)

theorem failClamp_pulses (r : Reason) (value aux : Nat) : p.PulsesMove (p.failClamp i r value aux) := by
  unfold Part.failClamp
  split
  · exact finish_pulses p i _
  · exact .refl p

theorem reverse_pulses (r : Reason) : p.PulsesMove (p.reverse i r) :=
  (failClamp_pulses _ i _ _ _).after (setFx_stimuli p i _)

theorem enterClamped_stimuli (record : Nat) :
    stimuliOf (p.enterClamped i record).stations = stimuliOf p.stations := by
  unfold Part.enterClamped Part.countCycle
  dsimp only
  split <;> simp

theorem closedArrival_pulses : p.PulsesMove (p.closedArrival i) := by
  have entered := Part.PulsesMove.of_stimuli (enterClamped_stimuli p i (p.station i).fx.record)
  unfold Part.closedArrival
  dsimp only
  split
  · split
    · exact entered
    · exact entered.trans (finish_pulses _ i _)
  · exact entered.trans (faultReport_pulses _ i _)

theorem openedArrival_pulses : p.PulsesMove (p.openedArrival i) := by
  have opened := Part.PulsesMove.of_stimuli (setFx_stimuli p i Fixture.toOpen)
  unfold Part.openedArrival
  dsimp only
  split
  · exact opened
  · split
    · exact opened.trans (finish_pulses _ i _)
    · exact opened.trans (finish_pulses _ i _)
    · exact opened

theorem guardCut_pulses : p.PulsesMove (p.guardCut i) := by
  unfold Part.guardCut
  split
  · exact (supplyLeave_pulses p i _).trans (faultReport_pulses _ i _)
  · exact .refl p

theorem nestLoss_pulses : p.PulsesMove (p.nestLoss i) := by
  have cut : p.PulsesMove (p.supplyCut i) := by
    unfold Part.supplyCut
    split
    · exact supplyLeave_pulses p i _
    · exact .refl p
  exact cut.trans (faultReport_pulses _ i _)

theorem armingButton_stimuli (held : Bool) :
    stimuliOf (p.armingButton i held).stations = stimuliOf p.stations := by
  have accepted : ∀ q : Part, stimuliOf (q.handsAccepted i).stations = stimuliOf q.stations := fun q => by
    unfold Part.handsAccepted
    dsimp only
    split
    · simp
    · split <;> simp
  unfold Part.armingButton
  dsimp only
  split <;> simp [accepted]

theorem fixtureOutcome_pulses (input : FixtureInput) (level : Bool) :
    p.PulsesMove (p.fixtureOutcome i input level) := by
  have twoHand : ∀ b : Bool, p.PulsesMove (if b then p.reverse i .operatorRelease else p) := fun b => by
    cases b
    · exact .refl p
    · exact reverse_pulses p i _
  unfold Part.fixtureOutcome
  dsimp only
  split
  · exact .of_stimuli (armingButton_stimuli p i _)
  · exact .of_stimuli (armingButton_stimuli p i _)
  · exact (failClamp_pulses _ i _ _ _).after (setFx_stimuli p i _)
  · exact closedArrival_pulses p i
  · exact twoHand _
  · exact twoHand _
  · exact reverse_pulses p i _
  · exact guardCut_pulses p i
  · exact nestLoss_pulses p i
  · exact openedArrival_pulses p i
  · exact openedArrival_pulses p i
  · exact .refl p

theorem debounceChange_pulses (input : FixtureInput) : p.PulsesMove (p.debounceChange i input) := by
  have taken := Part.PulsesMove.of_stimuli (setFx_stimuli p i fun f => f.takeInput input)
  unfold Part.debounceChange
  split
  · dsimp only
    split
    · exact taken
    · exact taken.trans (fixtureOutcome_pulses _ i _ _)
  · exact .refl p

theorem codeChange_pulses (code : BitVec 6) : p.PulsesMove (p.codeChange i code) := by
  unfold Part.codeChange
  split <;> exact .of_stimuli (by simp)

theorem handTimeout_pulses : p.PulsesMove (p.handTimeout i) := by
  unfold Part.handTimeout
  dsimp only
  split
  · split
    · exact (failClamp_pulses _ i _ _ _).after (setFx_stimuli p i _)
    · exact .refl p
  · exact .refl p

theorem travelExpiry_pulses : p.PulsesMove (p.travelExpiry i) := by
  have jammed : p.PulsesMove (p.jam i) := by
    have reported := (faultReport_pulses _ i .jammed).after (setFx_stimuli p i Fixture.toJammed)
    unfold Part.jam
    dsimp only
    split
    · exact reported.leaves (setFx_stimuli _ i _)
    · exact reported
  unfold Part.travelExpiry
  dsimp only
  split
  · split
    · exact jammed
    · exact .refl p
  · split
    · exact jammed
    · exact .refl p
  · exact .refl p

end Fixtures

/-! ### Events of the line controllers -/

section Lines
variable (p : Part) (i : StationId)

theorem endFrame_pulses (f : Frame) (result : FrameResult) : p.PulsesMove (p.endFrame i f result) := by
  have reached : ∀ q : Part, q.PulsesMove (q.frameReaches i f result) := fun q => by
    unfold Part.frameReaches
    split
    · split
      · exact .conclude (.of_stimuli (setWork_stimuli q i _))
      · exact .refl q
    · split
      · exact finish_pulses q i _
      · exact .refl q
    · exact finish_pulses q i _
    · exact finish_pulses q i _
    · exact .refl q
  exact (reached ((p.endFrameRecord i f result).afterFrame i)).after (by simp)

theorem scheduleDue_pulses (e : Fin 16) : p.PulsesMove (p.scheduleDue i e) := by
  unfold Part.scheduleDue
  split <;> exact .of_stimuli (by simp)

theorem wireFree_pulses : p.PulsesMove (p.wireFree i) := by
  unfold Part.wireFree
  split <;> exact .of_stimuli (by simp)

theorem syncComplete_pulses : p.PulsesMove (p.syncComplete i) := by
  unfold Part.syncComplete
  split <;> exact .of_stimuli (by simp)

theorem bitFault_pulses (noisy : Bool) : p.PulsesMove (p.bitFault i noisy) := by
  unfold Part.bitFault
  split
  · exact endFrame_pulses p i _ _
  · exact .refl p

theorem sendEnds_pulses (noisy : Bool) : p.PulsesMove (p.sendEnds i noisy) := by
  unfold Part.sendEnds
  split
  · split
    · exact .refl p
    · exact endFrame_pulses p i _ _
  · exact .refl p

theorem openWindow_pulses (noisy : Bool) : p.PulsesMove (p.openWindow i noisy) := by
  unfold Part.openWindow
  split
  · split <;> exact .of_stimuli (by simp)
  · exact .refl p

theorem hearCharacter_pulses (c : CharSamples) : p.PulsesMove (p.hearCharacter i c) := by
  unfold Part.hearCharacter
  split
  · split
    · exact .refl p
    · split
      · exact endFrame_pulses p i _ _
      · exact .of_stimuli (setFrame_stimuli p i _)
  · exact .refl p

theorem allowanceEnds_pulses : p.PulsesMove (p.allowanceEnds i) := by
  unfold Part.allowanceEnds
  split
  · split <;> exact .of_stimuli (by simp)
  · exact .refl p

theorem closeWindow_pulses (noisy : Bool) : p.PulsesMove (p.closeWindow i noisy) := by
  unfold Part.closeWindow
  split
  · exact endFrame_pulses p i _ _
  · exact .refl p

theorem falseStartBit_pulses : p.PulsesMove (p.falseStartBit i) := by
  unfold Part.falseStartBit
  split <;> exact .of_stimuli (by simp)

theorem stuckLine_pulses (recessiveSince : Bool) : p.PulsesMove (p.stuckLine i recessiveSince) := by
  have reached : ∀ (q : Part) cut, q.PulsesMove (q.stuckReaches i cut) := fun q cut => by
    unfold Part.stuckReaches
    split
    · exact finish_pulses q i _
    · exact finish_pulses q i _
    · exact finish_pulses q i _
    · split
      · split
        · exact .conclude (.of_stimuli (setWork_stimuli q i _))
        · exact .refl q
      · exact .refl q
    · exact .refl q
  have told : ∀ (q : Part) cut, q.PulsesMove
      ((((q.setLc i Line.stick).stuckReaches i cut).setLc i Line.tellStuck).raise (.line i)) := fun q cut =>
    ((reached _ cut).after (setLc_stimuli q i Line.stick)).leaves (by simp)
  unfold Part.stuckLine
  dsimp only
  split
  · split
    · exact (told _ _).after (endFrameRecord_stimuli p i _ _)
    · exact told p _
  · exact .refl p

end Lines

/-! ### Events of the panel -/

section PanelEvents
variable (p : Part)

theorem answerPrompt_pulses (e : PanelEntry) (r : Result) : p.PulsesMove (p.answerPrompt e r) :=
  ((Part.PulsesMove.refl p).panel (endShowing_only p)).trans (completeStep_pulses _ _ r)

theorem pressPrompt_pulses (e : PanelEntry) (key : Key) : p.PulsesMove (p.pressPrompt e key) := by
  unfold Part.pressPrompt
  split
  · exact (abandonRerun_pulses p _ _).trans (answerPrompt_pulses _ e _)
  · split
    · exact .refl p
    · exact answerPrompt_pulses p e _
  · split
    · exact .refl p
    · split
      · exact answerPrompt_pulses p e _
      · exact answerPrompt_pulses p e _
  · split
    · exact .refl p
    · exact pressRepeat_pulses p e

theorem pressNotice_only (key : Key) : PanelOnly p (p.pressNotice key) := by
  unfold Part.pressNotice
  split
  · exact endShowing_only p
  · exact endShowing_only p
  · rfl
  · rfl

theorem keyPressed_pulses (key : Key) : p.PulsesMove (p.keyPressed key) := by
  have taken : ∀ q : Part, q.PulsesMove (q.takePress key) := fun q => by
    unfold Part.takePress
    split
    · exact .refl q
    · split
      · exact .refl q
      · split
        · exact (Part.PulsesMove.refl q).panel (pressNotice_only q key)
        · exact pressPrompt_pulses q _ key
  unfold Part.keyPressed
  split
  · exact (taken _).after rfl
  · exact .refl p

theorem promptExpires_pulses : p.PulsesMove p.promptExpires := by
  unfold Part.promptExpires
  split
  · split
    · exact answerPrompt_pulses p _ _
    · exact .refl p
  · exact .refl p

theorem keyReleased_only (key : Key) : PanelOnly p (p.keyReleased key) := by
  unfold Part.keyReleased
  split <;> rfl

theorem render_only : PanelOnly p p.render := by
  unfold Part.render
  split
  · dsimp only
    split
    · exact (showText_only p _).trans (publishFigures_only _)
    · rfl
  · rfl

theorem noticeBeeps_only : PanelOnly p p.noticeBeeps := by
  unfold Part.noticeBeeps
  split
  · split <;> rfl
  · rfl

theorem buzzerEnds_only : PanelOnly p p.buzzerEnds := by
  unfold Part.buzzerEnds
  split
  · split <;> rfl
  · rfl

end PanelEvents

/-! ### Events against rack time, of the supply and of the stimulus -/

section Timed
variable (p : Part) (i : StationId)

theorem waitEnds_pulses : p.PulsesMove (p.waitEnds i) := by
  unfold Part.waitEnds
  split
  · split
    · split
      · exact finish_pulses p i _
      · exact .refl p
    · exact .refl p
  · exact .refl p

theorem nextAttempt_pulses : p.PulsesMove (p.nextAttempt i) := by
  unfold Part.nextAttempt
  split
  · split
    · split
      · exact .conclude (.of_stimuli (startAttempt_stimuli p i _ _))
      · exact .refl p
    · exact .refl p
  · exact .refl p

theorem settleExpires_pulses : p.PulsesMove (p.settleExpires i) := by
  unfold Part.settleExpires
  split
  · split
    · split
      · split
        · exact finish_pulses p i _
        · exact .of_stimuli (setWork_stimuli p i _)
      · exact .refl p
    · exact .refl p
  · exact .refl p

theorem listenExpires_pulses : p.PulsesMove (p.listenExpires i) := by
  unfold Part.listenExpires
  split
  · split
    · split
      · exact finish_pulses p i _
      · exact .refl p
    · exact .refl p
  · exact .refl p

theorem supplyStep_pulses : p.PulsesMove (p.supplyStep i) := by
  unfold Part.supplyStep
  dsimp only
  split
  · split
    · exact (finish_pulses _ i _).after (setPs_stimuli p i _)
    · exact .of_stimuli (setPs_stimuli p i _)
  · exact .refl p

theorem monitorSample_pulses (mA mV : Nat) (inLimit : Bool) : p.PulsesMove (p.monitorSample i mA mV inLimit) := by
  unfold Part.monitorSample
  split <;> exact .of_stimuli (by simp)

theorem trip_pulses : p.PulsesMove (p.trip i) := by
  unfold Part.trip
  dsimp only
  split
  · exact (supplyLeave_pulses p i _).trans (faultReport_pulses _ i _)
  · exact .refl p

theorem rampStep_pulses (c : RampChannel) : p.PulsesMove (p.rampStep i c) := by
  unfold Part.rampStep
  dsimp only
  split
  · exact .refl p
  · rename_i r _
    have stepped : p.PulsesMove ((p.setSt i fun _ => ((p.station i).st.stepRamp c r).1).setWalker i
        fun w => w.countStep c) :=
      ((Part.PulsesMove.refl p).setSt i (Stimulus.stepRamp_pulses _ c r)).leaves (setWalker_stimuli _ i _)
    split
    · split
      · split
        · exact stepped.trans (finish_pulses _ i _)
        · exact stepped
      · exact stepped
    · exact .refl p

theorem periodBoundary_pulses (k : Fin 4) :
    p.PulsesMove (p.setSt i fun t => { t with pg := put t.pg k t.pg[k].boundary }) :=
  (Part.PulsesMove.refl p).setSt i (Stimulus.put_pulses _ k (.boundary _))

end Timed

/-! ### Events of the rack and of the host -/

section Rack
variable (p : Part)

theorem writeSweep_pulses : p.PulsesMove p.writeSweep := by
  unfold Part.writeSweep
  split
  · exact sweep_pulses p
  · exact .refl p

theorem periodicSweep_pulses : p.PulsesMove p.periodicSweep := by
  unfold Part.periodicSweep
  split
  · split
    · exact (sweep_pulses _).after rfl
    · exact .refl p
  · exact .refl p

theorem writeStnctl_pulses (v : Word) : p.PulsesMove (p.writeStnctl v) := by
  refine eachStation_pulses p fun i q => ?_
  dsimp only
  split
  · split
    · exact (halt_pulses q i).trans (clear_pulses _ i)
    · exact clear_pulses q i
  · split
    · exact halt_pulses q i
    · exact .refl q

theorem guardedWrite_pulses (i : StationId) (c : CellId) (v : Word) : p.PulsesMove (p.guardedWrite i c v) := by
  unfold Part.guardedWrite
  dsimp only
  split <;> exact .of_stimuli rfl

theorem writeMemory_pulses (x : Nat) (v : Word) : p.PulsesMove (p.writeMemory x v) := by
  unfold Part.writeMemory
  split
  · exact guardedWrite_pulses p _ _ v
  · exact .of_stimuli rfl

theorem rackTick_pulses (keys : RawMs 4) (fixtures : Vector FixtureRaw 4) :
    p.PulsesMove (p.rackTick keys fixtures) := by
  have counted : p.PulsesMove (p.countFixtures fixtures) :=
    eachStation_pulses p fun i q => .of_stimuli (setFx_stimuli q i _)
  have written : ∀ q : Part, q.PulsesMove
      (q.eachStation fun i q => if (q.station i).walker.state = .off then q else q.writeInputs i) := fun q => by
    refine eachStation_pulses q fun i q => ?_
    split <;> exact .of_stimuli (by simp)
  have advanced : ∀ (q : Part) now c, q.PulsesMove { q with rackTime := now, panel := c } := fun _ _ _ =>
    .of_stimuli rfl
  unfold Part.rackTick
  dsimp only
  split
  · exact counted
  · unfold Part.tick
    exact (counted.trans (written _)).trans (advanced _ _ _)

theorem bringUp_stimuli (raw : RawLevels) (i : StationId) :
    stimuliOf (p.bringUp raw i).stations = stimuliOf p.stations := by
  funext j
  show ((p.bringUp raw i).station j).st = (p.station j).st
  by_cases hj : j = i
  · subst hj
    obtain ⟨w, f, l, a, -, -, column⟩ := bringUp_station p raw j
    rw [column]
  · rw [(bringUp_local p i raw).others j hj]

theorem tryEnable_pulses (raw : RawLevels) : p.PulsesMove (p.tryEnable raw) := by
  have recorded : ∀ e, p.PulsesMove (p.writeConfigError e) := fun e => by cases e <;> exact .of_stimuli rfl
  have ups : ∀ (q : Part) (mask : BitVec 4),
      q.PulsesMove (q.eachStation fun i q => if mask.getLsbD i.val then q.bringUp raw i else q) := fun q mask => by
    refine eachStation_pulses q fun i q => ?_
    split
    · exact .of_stimuli (bringUp_stimuli q raw i)
    · exact .refl q
  have checked : ∀ (q : Part) high low suspect, (q.writeReference high low suspect).stations = q.stations :=
    fun _ _ _ _ => rfl
  have enabled : ∀ q : Part, q.PulsesMove (q.enable raw) := fun q => by
    have latched : q.PulsesMove { q with enabled := true, config := q.readRackConfig } := .of_stimuli rfl
    unfold Part.enable
    refine .panel (.leaves (latched.trans (ups _ q.readRackConfig.mask)) ?_) (enablePanel_only _ _)
    rw [checked, setConv_stations]
  unfold Part.tryEnable
  split
  · exact recorded _
  · exact (recorded none).trans (enabled _)

/-- A station taken down parks its unit with its supply (R198). -/
theorem takeDown_pulses (i : StationId) : p.PulsesMove (p.takeDown i) := by
  unfold Part.takeDown
  split
  · exact .refl p
  · dsimp only
    have closed := ((supplyOff_pulses p i).trans (abandonStep_pulses _ i .disabled)).leaves (closeRun_stimuli _ i)
    refine closed.modify i ?_
    dsimp only
    exact .refl _

theorem disable_pulses : p.PulsesMove p.disable := by
  have dark : p.PulsesMove { p with enabled := false } := .of_stimuli rfl
  unfold Part.disable
  refine .panel (.leaves (dark.trans (eachStation_pulses _ fun i q => takeDown_pulses q i)) ?_) (disablePanel_only _)
  rw [setConv_stations]

theorem writeControl_pulses (v : Word) (raw : RawLevels) : p.PulsesMove (p.writeControl v raw) := by
  have written : p.PulsesMove (if writtenEnable v && !p.enabled then p.tryEnable raw
      else if !writtenEnable v && p.enabled then p.disable else p) := by
    split
    · exact tryEnable_pulses p raw
    · split
      · exact disable_pulses p
      · exact .refl p
  exact written.leaves rfl

end Rack

/-! ### Resets -/

/-- A reset of a part that runs parks every unit (R88). -/
theorem resetRunning_pulses (p : Part) (cause : ResetCause) : p.PulsesMove (p.resetRunning cause) := fun i => by
  show (p.station i).st.PulsesMove ((p.resetRunning cause).station i).st
  rw [resetRunning_station]
  exact Stimulus.park_pulses _

theorem resetPin_pulses (p : Part) : p.PulsesMove p.resetPin := by
  cases hr : p.inReset with
  | none =>
    rw [resetPin_runs hr]
    exact (resetRunning_pulses p .pin).leaves rfl
  | some _ =>
    rw [resetPin_held hr]
    exact .of_stimuli rfl

theorem powerOn_pulses (p : Part) (contents : List Host.Cell) : p.PulsesMove (p.powerOn contents) := fun i => by
  show (p.station i).st.PulsesMove (State.reset.part.station i).st
  rw [reset_station]
  exact Stimulus.park_pulses _

/-! ### Every command -/

theorem take_pulses {p : Part} {f : Part → Part} (h : p.PulsesMove (f p)) : p.PulsesMove (p.take f) := by
  unfold Part.take
  split
  · exact .refl p
  · exact h.leaves rfl

theorem rackctlWrite_pulses (p : Part) (v : Word) (raw : RawLevels) : p.PulsesMove (p.rackctlWrite v raw) := by
  unfold Part.rackctlWrite
  split
  · exact .refl p
  · split
    · exact (resetRunning_pulses p .soft).leaves rfl
    · exact (writeControl_pulses p v raw).leaves rfl

theorem writeRegister_pulses (p : Part) (r : Register) (v : Word) : p.PulsesMove (p.writeRegister r v) := by
  cases r with
  | ident | racktime | guardlog => exact take_pulses (f := fun q => q) (.refl p)
  | rackctl => exact rackctlWrite_pulses p v _
  | sweep => exact take_pulses (writeSweep_pulses p)
  | stnctl => exact take_pulses (f := fun q => q.writeStnctl v) (writeStnctl_pulses p v)
  | attn => exact take_pulses (f := fun q => q.writeAttn v) (.of_stimuli rfl)
  | attnmask => exact take_pulses (f := fun q => q.writeAttnMask v) (.of_stimuli rfl)

theorem hostWrite_pulses (p : Part) (k : BitVec 14) (v : Word) : p.PulsesMove (p.hostWrite k v) := by
  unfold Part.hostWrite
  split
  · exact writeRegister_pulses p _ v
  · exact take_pulses (writeMemory_pulses p _ v)

/-- Every command moves the generators. -/
theorem exec_pulses {c : Instr} {s t : State} (h : exec c s = .next t) : s.part.PulsesMove t.part := by
  have event : ∀ f : Part → Part, s.event f = .next t → s.part.PulsesMove (f s.part) → s.part.PulsesMove t.part :=
    fun f h moves => by
      cases h
      exact take_pulses moves
  have always : ∀ f : Part → Part, s.always f = .next t → s.part.PulsesMove (f s.part) →
      s.part.PulsesMove t.part := fun f h moves => by
    cases h
    exact moves.leaves rfl
  have shown : ∀ {q : Part}, PanelOnly s.part q → s.part.PulsesMove q := (Part.PulsesMove.refl s.part).panel
  cases c with
  | powerOnReset contents => cases h; exact powerOn_pulses _ contents
  | resetPinAsserted => cases h; exact resetPin_pulses _
  | softReset v => cases h; exact rackctlWrite_pulses _ v _
  | rackEnable v raw => cases h; exact rackctlWrite_pulses _ v raw
  | rackDisable v => cases h; exact rackctlWrite_pulses _ v _
  | sweepmodeWrite v => cases h; exact rackctlWrite_pulses _ v _
  | sweepWrite v => exact event _ h (writeSweep_pulses s.part)
  | periodicSweep => exact event _ h (periodicSweep_pulses s.part)
  | stationHalt v => exact event _ h (writeStnctl_pulses s.part v)
  | stationClear v => exact event _ h (writeStnctl_pulses s.part v)
  | attnClear v => exact event _ h (.of_stimuli rfl)
  | attnmaskWrite v => exact event _ h (.of_stimuli rfl)
  | guardlogRead =>
    cases h
    unfold Part.readGuardLog
    split <;> exact .of_stimuli rfl
  | registerWriteIgnored r v => cases h; exact writeRegister_pulses _ r v
  | hostMemoryWrite k v => cases h; exact hostWrite_pulses _ k v
  | hostCellStateWrite i c v => exact event _ h (guardedWrite_pulses s.part i c v)
  | rackTimeTick keys fixtures =>
    exact always (fun p => p.rackTick keys fixtures) h (rackTick_pulses s.part keys fixtures)
  | waitExpiry i => exact event _ h (waitEnds_pulses s.part i)
  | fixtureDebounceChange i k => exact always _ h (debounceChange_pulses s.part i k)
  | fixtureCodeChange i d => exact always _ h (codeChange_pulses s.part i d)
  | twoHandTimeout i => exact event _ h (handTimeout_pulses s.part i)
  | travelTimeout i => exact event _ h (travelExpiry_pulses s.part i)
  | supplyRampStep i => exact event _ h (supplyStep_pulses s.part i)
  | supplyMonitorSample i mA mV b => exact event _ h (monitorSample_pulses s.part i _ _ b)
  | supplyTrip i => exact event _ h (trip_pulses s.part i)
  | stimulusRampStep i k => exact event _ h (rampStep_pulses s.part i k)
  | pgPeriodBoundary i g => exact event _ h (periodBoundary_pulses s.part i g)
  | scheduleEntryDue i e => exact event _ h (scheduleDue_pulses s.part i e)
  | wireFree i => exact event _ h (wireFree_pulses s.part i)
  | lineSyncComplete i => exact event _ h (syncComplete_pulses s.part i)
  | bitError i b => exact event _ h (bitFault_pulses s.part i b)
  | frameEnd i b => exact event _ h (sendEnds_pulses s.part i b)
  | responseCharacterReceived i x => exact event _ h (hearCharacter_pulses s.part i x)
  | responseAllowanceExpiry i => exact event _ h (allowanceEnds_pulses s.part i)
  | responseWindowClose i b => exact event _ h (closeWindow_pulses s.part i b)
  | lineStuck i b => exact event _ h (stuckLine_pulses s.part i b)
  | sampleEnd v => exact event _ h (sampleEnds_pulses s.part v)
  | inputFilteredEdge i k tick => exact event _ h (inputEdge_pulses s.part i k tick)
  | inputExcursionRejected i k => exact event _ h (inputReject_pulses s.part i k)
  | edgeWindowClose i => exact event _ h (windowEnds_pulses s.part i)
  | meterGateEnd i n => exact event _ h (.of_stimuli (setAq_stimuli s.part i _))
  | meterDeadline i n => exact event _ h (meterExpires_pulses s.part i n)
  | lampIdentityRead i b => exact event _ h (identityRead_pulses s.part i b)
  | lampRowUpdate i v => exact event _ h (rowUpdate_pulses s.part i v)
  | attemptStart i => exact event _ h (nextAttempt_pulses s.part i)
  | settleTimeout i => exact event _ h (settleExpires_pulses s.part i)
  | listenTimeout i => exact event _ h (listenExpires_pulses s.part i)
  | keyPress k => exact event _ h (keyPressed_pulses s.part k)
  | promptTimeout => exact event _ h (promptExpires_pulses s.part)
  | panelRender => exact event _ h (shown (render_only s.part))
  | noticeBeep => exact event _ h (shown (noticeBeeps_only s.part))
  | buzzerEnd => exact event _ h (shown (buzzerEnds_only s.part))
  | resetEnd =>
    cases h
    unfold Part.endReset
    split <;> exact .of_stimuli rfl
  | keyRelease k => exact event _ h (shown (keyReleased_only s.part k))
  | responseWindowOpen i b => exact event _ h (openWindow_pulses s.part i b)
  | falseStart i => exact event _ h (falseStartBit_pulses s.part i)

theorem step_pulses {s t : State} (h : step s = .next t) : s.part.PulsesMove t.part := by
  unfold step at h
  split at h
  · cases h
    exact .refl _
  · rename_i c rest _
    exact exec_pulses (s := { s with pending := rest }) h

end Sys2Proof.Machine
end

section
/-! The counts of the pulse generators over every step (R90, R91): each move keeps the counts a generator runs, or is to
run, in their ranges. -/

namespace Sys2Proof.Machine

/-- The counts a generator runs, and those it is to run, lie in their ranges. -/
structure PulseGen.Lawful (g : PulseGen) : Prop where
  running : g.running.lawful
  pending : ∀ c, g.pending = some c → c.lawful

/-- A change runs, or is to run, the counts of the setting it brings. -/
theorem PulseGen.Lawful.change {g : PulseGen} (h : g.Lawful) (present duty : Nat) (idle : Bool) :
    (g.change present duty idle).Lawful := by
  have counts := countsOf_lawful present duty idle
  unfold PulseGen.change
  dsimp only
  split
  · exact ⟨counts, nofun⟩
  · split
    · exact ⟨h.running, nofun⟩
    · exact ⟨h.running, fun c e => Option.some.inj e ▸ counts⟩

theorem PulseGen.Lawful.set {g : PulseGen} (h : g.Lawful) (now : Time) (mHz duty : Nat) (idle : Bool) (rate : Nat)
    (start : Option Nat) : (g.set now mHz duty idle rate start).1.Lawful := by
  have fresh : ∀ target limited, ({ g with ramp := none, target := target, limited := limited } : PulseGen).Lawful :=
    fun _ _ => ⟨h.running, h.pending⟩
  cases start with
  | none =>
    simp only [PulseGen.set, Option.map_none, Option.isSome_none, Bool.false_eq_true, if_false]
    split
    · exact (fresh _ _).change _ _ _
    · exact ⟨h.running, h.pending⟩
  | some v =>
    have begun := fun target limited => (fresh target limited).change (clampFrequency v).1 (clampNat 1 999 duty) idle
    simp only [PulseGen.set, Option.map_some, Option.isSome_some, if_true]
    split
    · exact (begun _ _).change _ _ _
    · exact ⟨(begun _ _).running, (begun _ _).pending⟩

/-- Every move of a generator keeps its counts in their ranges. -/
theorem PulseGen.Moves.lawful {g g' : PulseGen} (m : g.Moves g') (h : g.Lawful) : g'.Lawful := by
  induction m with
  | refl => exact h
  | trans _ _ ih ih' => exact ih' (ih h)
  | park => exact ⟨.inl ⟨rfl, rfl⟩, nofun⟩
  | halt g =>
    unfold PulseGen.halt
    split
    · exact ⟨h.running, h.pending⟩
    · exact h
  | set => exact h.set _ _ _ _ _ _
  | step g r =>
    have changed := h.change (rampTowards g.present g.target r.rate) r.duty r.idle
    unfold PulseGen.step
    dsimp only
    split
    · exact ⟨changed.running, changed.pending⟩
    · exact ⟨changed.running, changed.pending⟩
  | boundary g =>
    unfold PulseGen.boundary
    split
    · exact h
    · split
      · rename_i c pending
        exact ⟨h.pending c pending, nofun⟩
      · exact h

theorem Part.PulsesMove.pulseLaw {p q : Part} (m : p.PulsesMove q) (law : p.PulseLaw) : q.PulseLaw := fun i k =>
  have ⟨running, pending⟩ := law i k
  have kept := (m i k).lawful ⟨running, pending⟩
  ⟨kept.running, kept.pending⟩

theorem clampFrequency_eq (f : Nat) :
    clampFrequency f =
      if f = 0 then (0, false)
      else if 2 * tickScale < 999 * f then (20000000, true)
      else if 80000001 * f ≤ 2 * tickScale then (250, true)
      else (f, false) := by
  split
  · rename_i zero
    rw [zero]
    rfl
  · exact clampFrequency_pos (by omega)

/-- Settles O43: every step moves the generators, each move keeps the law, and the counts are two quotients rounded half
up and clamped. -/
theorem pulseCountsAreLawful : Obligations.PulseCountsAreLawful := by
  refine ⟨fun s t law h => (step_pulses h).pulseLaw law, clampFrequency_eq, fun f duty idle hf _ _ => ?_⟩
  have positive : 0 < f := Nat.pos_of_ne_zero hf
  obtain ⟨shortest, longest⟩ := periodOf_range f
  have wide : 2 ≤ periodOf f := by omega
  obtain ⟨least, most⟩ := highOf_range wide duty
  rw [countsOf_pos hf]
  exact ⟨shortest, longest, least, most, rfl, fun n => periodOf_eq positive, periodOf_shortest positive,
    periodOf_longest positive, fun n => highOf_eq, highOf_most wide, highOf_least wide⟩

end Sys2Proof.Machine
end

section
/-! What the operations of a line controller leave of the other blocks, and how a frame's events end it: the layer under
the statements of the cluster line (06). -/

namespace Sys2Proof.Machine

/-! ### Operations of the line alone -/

/-- Of the station columns at most the line controllers have moved. -/
def Part.LinesOnly (p q : Part) : Prop := ∀ j, q.station j = { p.station j with lc := (q.station j).lc }

namespace Part.LinesOnly

variable {p q r : Part}

theorem refl (p : Part) : p.LinesOnly p := fun _ => rfl

theorem trans (h : p.LinesOnly q) (h' : q.LinesOnly r) : p.LinesOnly r := fun j => by rw [h' j, h j]

/-- An operation that leaves every station column, after others. -/
theorem leaves (h : p.LinesOnly q) (e : r.stations = q.stations) : p.LinesOnly r := fun j => by
  have same : r.station j = q.station j := by rw [Part.station, Part.station, e]
  rw [same]
  exact h j

theorem memory (h : p.LinesOnly q) (m : Memory) : p.LinesOnly { q with mem := m } := h.leaves rfl

theorem poke32 (h : p.LinesOnly q) (x v : Nat) : p.LinesOnly (q.poke32 x v) := h.leaves rfl

theorem setLc (h : p.LinesOnly q) (i : StationId) (f : Line → Line) : p.LinesOnly (q.setLc i f) := h.trans fun j => by
  by_cases hj : i = j
  · subst hj
    rw [setLc_station_same]
  · rw [setLc_station_other _ _ _ _ hj]

theorem walker (h : p.LinesOnly q) (j : StationId) : (q.station j).walker = (p.station j).walker := by rw [h j]

theorem stimulus (h : p.LinesOnly q) (j : StationId) : (q.station j).st = (p.station j).st := by rw [h j]

theorem works (h : p.LinesOnly q) {j : StationId} {t : Step} {k : Work} (works : p.Works j t k) : q.Works j t k := by
  unfold Part.Works
  rw [h.walker j]
  exact works

/-- An operation carried out once for each thing of a list. -/
theorem foldl {α : Type} {f : Part → α → Part} (h : p.LinesOnly q) (l : List α)
    (hf : ∀ (q : Part) a, q.LinesOnly (f q a)) : p.LinesOnly (l.foldl f q) := by
  induction l generalizing q with
  | nil => exact h
  | cons a l ih => exact ih (h.trans (hf q a))

end Part.LinesOnly

section Operations
variable (p : Part) (i : StationId)

theorem overrun_linesOnly (e : Fin 16) : p.LinesOnly (p.overrun i e) :=
  ((Part.LinesOnly.refl p).setLc i _).poke32 _ _

theorem joinDue_linesOnly (e : Fin 16) (key : Time) : p.LinesOnly (p.joinDue i e key) := by
  unfold Part.joinDue
  split
  · exact overrun_linesOnly p i e
  · exact (Part.LinesOnly.refl p).setLc i _

theorem fallDue_linesOnly (e : Fin 16) : p.LinesOnly (p.fallDue i e) := by
  unfold Part.fallDue
  dsimp only
  split
  · exact .refl p
  · exact (joinDue_linesOnly p i e _).setLc i _

theorem loadSchedule_linesOnly (t : Vector Entry 16) : p.LinesOnly (p.loadSchedule i t) := by
  have due : ∀ q : Part, q.LinesOnly (q.fallDueAll i) := fun q => by
    refine (Part.LinesOnly.refl q).foldl _ fun q e => ?_
    split
    · exact fallDue_linesOnly q i e
    · exact .refl q
  unfold Part.loadSchedule
  exact ((((Part.LinesOnly.refl p).setLc i _).memory _).trans (due _)).setLc i _

/-- The items of the line that a frame's end records (R112, R122, R123). -/
def Line.recorded (l : Line) (f : Frame) (r : FrameResult) (now : Time) : Line :=
  { l.receive f.entry (fun e => e.complete f r now) with
    framesDone := l.framesDone + 1
    framesBad := if r = .ok then l.framesBad else l.framesBad + 1
    lastEntry := f.entry, lastResult := r }

/-- What a good frame writes of a reception entry: the data of an answer, and the time stamp (R122, R123). -/
def Memory.writeAnswer (m : Memory) (x : Nat) (e : Reception) (fetch good : Bool) : Memory :=
  if good then (if fetch then m.writeBytes x e.data else m).writeLE (x + 12) 4 e.time.toNat else m

/-- What every frame writes of it: the counts, then the word of length, last error and NOISE. -/
def Memory.writeFigures (m : Memory) (x : Nat) (e : Reception) : Memory :=
  (m.writeLE (x + 16) 4 (word2 (n16 e.good) (n16 e.bad)).toNat).writeLE (x + 8) 4
    (word4 (n8 e.length) e.lastError.code (bit e.noise) 0).toNat

/-- What every FETCH frame writes of it last: the sequence. -/
def Memory.writeSequence (m : Memory) (x : Nat) (e : Reception) (fetch : Bool) : Memory :=
  if fetch then m.writeLE (x + 24) 4 (word2 e.sequence 0).toNat else m

/-- What a frame's end writes of its reception entry, in R122's and R123's order. -/
def Memory.writeReception (m : Memory) (x : Nat) (e : Reception) (fetch good : Bool) : Memory :=
  ((m.writeAnswer x e fetch good).writeFigures x e).writeSequence x e fetch

/-- A frame's end moves its line's own items, and writes the entry they leave. -/
theorem recordFrame_eq (f : Frame) (r : FrameResult) :
    p.recordFrame i f r =
      { p.setLc i fun l => l.recorded f r p.rackTime with
        mem := p.mem.writeReception (Config.receptionEntry i f.entry)
          ((p.station i).lc.reception[f.entry].complete f r p.rackTime) f.fetch (decide (r = .ok)) } := by
  have written : ∀ q : Part,
      (let q2 := if r = .ok then
          (if f.fetch then q.writeReceptionData i f.entry else q).writeReceptionTime i f.entry
        else q
       let q3 := (q2.writeReceptionCounts i f.entry).writeReceptionState i f.entry
       if f.fetch then q3.writeReceptionSequence i f.entry else q3) =
      { q with
        mem := q.mem.writeReception (Config.receptionEntry i f.entry) (q.station i).lc.reception[f.entry] f.fetch
          (decide (r = .ok)) } := fun q => by
    unfold Memory.writeReception Memory.writeAnswer Memory.writeSequence
    dsimp only
    simp only [decide_eq_true_eq]
    split <;> split <;> rfl
  refine (written (p.setLc i fun l => l.recorded f r p.rackTime)).trans ?_
  rw [setLc_station_same, setLc_mem]
  simp only [Line.recorded, Line.receive, Fin.getElem_fin, put_same]

theorem endFrameRecord_station (f : Frame) (r : FrameResult) :
    (p.endFrameRecord i f r).station i =
      { p.station i with lc := { (p.station i).lc.recorded f r p.rackTime with frame := none, gap := true } } := by
  have recorded : (p.recordFrame i f r).station i = (p.setLc i fun l => l.recorded f r p.rackTime).station i := by
    rw [recordFrame_eq]
    rfl
  rw [Part.endFrameRecord, setLc_station_same, recorded, setLc_station_same]

theorem endFrameRecord_linesOnly (f : Frame) (r : FrameResult) : p.LinesOnly (p.endFrameRecord i f r) :=
  (((Part.LinesOnly.refl p).setLc i _).leaves (by rw [recordFrame_eq])).setLc i _

theorem afterFrame_linesOnly : p.LinesOnly (p.afterFrame i) := by
  unfold Part.afterFrame
  dsimp only
  split
  · exact (Part.LinesOnly.refl p).setLc i _
  · split
    · exact loadSchedule_linesOnly p i _
    · exact .refl p

end Operations

/-! ### What waits for a frame's end (R125, R126) -/

section After
variable {p : Part} {i : StationId} (f : Frame) (r : FrameResult)

theorem afterFrame_plain (hs : (p.station i).lc.pendingStop = false) (hr : (p.station i).lc.pendingReload = none) :
    (p.endFrameRecord i f r).afterFrame i = p.endFrameRecord i f r := by
  simp [Part.afterFrame, endFrameRecord_station, Line.recorded, Line.receive, hs, hr]

theorem afterFrame_stops (hs : (p.station i).lc.pendingStop = true) :
    (p.endFrameRecord i f r).afterFrame i =
      (p.endFrameRecord i f r).setLc i fun l => { l with pendingStop := false, state := .quiet } := by
  simp [Part.afterFrame, endFrameRecord_station, Line.recorded, Line.receive, hs]

theorem afterFrame_loads {table : Vector Entry 16} (hs : (p.station i).lc.pendingStop = false)
    (hr : (p.station i).lc.pendingReload = some table) :
    (p.endFrameRecord i f r).afterFrame i = (p.endFrameRecord i f r).loadSchedule i table := by
  simp [Part.afterFrame, endFrameRecord_station, Line.recorded, Line.receive, hs, hr]

end After

/-! ### The step that a frame's end reaches (R125 to R127, R170) -/

section Reaches
variable {p : Part} {i : StationId} {f : Frame} {r : FrameResult} {t : Step}

theorem endFrame_linesOnly (p : Part) (i : StationId) (f : Frame) (r : FrameResult) :
    p.LinesOnly ((p.endFrameRecord i f r).afterFrame i) :=
  (endFrameRecord_linesOnly p i f r).trans (afterFrame_linesOnly _ i)

/-- A frame's end reaches no step that does not hear frames. -/
theorem endFrame_unheard (h : (p.station i).walker.work.hearsFrames = false) :
    p.endFrame i f r = (p.endFrameRecord i f r).afterFrame i := by
  rw [← (endFrame_linesOnly p i f r).walker i] at h
  unfold Part.endFrame Part.frameReaches
  split
  case h_5 => rfl
  all_goals
    rename_i work
    simp [work, Work.hearsFrames] at h

theorem endFrame_once (h : p.Works i t (.sendOnce f.entry true)) :
    p.endFrame i f r =
      ((p.endFrameRecord i f r).afterFrame i).completeStep i (.done 0 r.code.toNat (bit f.noise).toNat) := by
  have works := (endFrame_linesOnly p i f r).works h
  simp [Part.endFrame, Part.frameReaches, work_works _ i t _ works, finish_step _ _ _ works.1]

theorem endFrame_stop {removed : Nat} (h : p.Works i t (.sendStop removed)) :
    p.endFrame i f r = ((p.endFrameRecord i f r).afterFrame i).completeStep i (.done 0 removed 0) := by
  have works := (endFrame_linesOnly p i f r).works h
  simp [Part.endFrame, Part.frameReaches, work_works _ i t _ works, finish_step _ _ _ works.1]

theorem endFrame_start {enabled clamped : Nat} (h : p.Works i t (.sendStart enabled clamped)) :
    p.endFrame i f r =
      ((p.endFrameRecord i f r).afterFrame i).completeStep i (startResult enabled clamped) := by
  have works := (endFrame_linesOnly p i f r).works h
  simp [Part.endFrame, Part.frameReaches, work_works _ i t _ works, finish_step _ _ _ works.1]

theorem endFrame_listen {w : ListenWork} (h : p.Works i t (.listen w)) (hf : f.fetch = true)
    (he : w.params.entry = f.entry) :
    p.endFrame i f r = Part.conclude i
      (((p.endFrameRecord i f r).afterFrame i).setWork i (.listen (w.hear (p.station i).st f r).1),
       (w.hear (p.station i).st f r).2) := by
  have works := (endFrame_linesOnly p i f r).works h
  simp [Part.endFrame, Part.frameReaches, work_works _ i t _ works, hf, he, (endFrame_linesOnly p i f r).stimulus i]

end Reaches

/-! ### The events of a frame (R110 to R112) -/

section Events
variable {p : Part} {i : StationId} {f : Frame}

theorem transmitting_of {l : Line} (h : l.frame = some f) (hw : f.window = false) : l.transmitting = some f := by
  simp [Line.transmitting, h, hw]

theorem windowFrame_of {l : Line} (h : l.frame = some f) (hw : f.window = true) : l.windowFrame = some f := by
  simp [Line.windowFrame, h, hw]

theorem bitFault_eq (noisy : Bool) (h : (p.station i).lc.frame = some f) (hw : f.window = false) :
    p.bitFault i noisy = p.endFrame i { f with noise := f.noise || noisy } .bitError := by
  simp [Part.bitFault, transmitting_of h hw, Frame.mark]

theorem sendEnds_eq (noisy : Bool) (h : (p.station i).lc.frame = some f) (hw : f.window = false)
    (hf : f.fetch = false) : p.sendEnds i noisy = p.endFrame i { f with noise := f.noise || noisy } .ok := by
  simp [Part.sendEnds, transmitting_of h hw, Frame.mark, hf]

theorem openWindow_eq (noisy : Bool) (h : (p.station i).lc.frame = some f) (hw : f.window = false)
    (hf : f.fetch = true) :
    p.openWindow i noisy = p.setFrame i { f with noise := f.noise || noisy, window := true } := by
  simp [Part.openWindow, transmitting_of h hw, Frame.mark, hf]

theorem closeWindow_eq (noisy : Bool) (h : (p.station i).lc.frame = some f) (hw : f.window = true) :
    p.closeWindow i noisy =
      p.endFrame i { f with noise := f.noise || (noisy && f.decided.isNone) } (f.decided.getD .short) := by
  simp [Part.closeWindow, windowFrame_of h hw, Frame.mark]

/-- A character that ends the frame. -/
theorem hearCharacter_ends {c : CharSamples} {g : Frame} {r : FrameResult} (h : (p.station i).lc.frame = some f)
    (hw : f.window = true) (hd : f.decided = none) (received : f.receive c = (g, some r)) :
    p.hearCharacter i c = p.endFrame i g r := by
  simp [Part.hearCharacter, windowFrame_of h hw, hd, received]

/-- A character after which the frame goes on. -/
theorem hearCharacter_goesOn {c : CharSamples} {g : Frame} (h : (p.station i).lc.frame = some f)
    (hw : f.window = true) (hd : f.decided = none) (received : f.receive c = (g, none)) :
    p.hearCharacter i c = p.setLc i fun l => { l with frame := some g } := by
  simp [Part.hearCharacter, windowFrame_of h hw, hd, received, Part.setFrame]

/-- A character outside a window, or after a decision, is discarded. -/
theorem hearCharacter_discards (c : CharSamples)
    (h : (p.station i).lc.frame = none ∨
      ∃ f, (p.station i).lc.frame = some f ∧ (f.window = false ∨ f.decided.isSome = true)) :
    p.hearCharacter i c = p := by
  unfold Part.hearCharacter
  split
  · rename_i f open_
    obtain ⟨frame, window⟩ := Option.filter_eq_some_iff.mp open_
    obtain none_ | ⟨g, some_, shut | decided⟩ := h
    · rw [none_] at frame
      cases frame
    · rw [some_] at frame
      cases frame
      rw [shut] at window
      cases window
    · rw [some_] at frame
      cases frame
      rw [if_pos decided]
  · rfl

end Events

/-! ### A received character (R108, R111) -/

section Receive
variable {f : Frame} {c : CharSamples}

theorem receive_falseStart (start : majority c.start = true) :
    f.receive c = ({ f with noise := true }, none) := by
  simp [Frame.receive, start]

theorem receive_mark (start : majority c.start = false) (mark : majority c.mark = true) :
    f.receive c = ({ f with noise := f.noise || samplesNoisy c, decided := some .mark }, none) := by
  simp [Frame.receive, start, mark]

variable (start : majority c.start = false) (mark : majority c.mark = false)
include start mark

theorem receive_framing (stop : majority c.stop = false) :
    f.receive c = ({ f with noise := f.noise || samplesNoisy c, decided := some .framing }, none) := by
  simp [Frame.receive, start, mark, stop]

theorem receive_joins (stop : majority c.stop = true) (h : f.received.length < f.length) :
    f.receive c =
      ({ f with noise := f.noise || samplesNoisy c, received := f.received ++ [samplesByte c] }, none) := by
  simp [Frame.receive, start, mark, stop, h]

theorem receive_last (stop : majority c.stop = true) (h : f.length ≤ f.received.length) :
    f.receive c =
      ({ f with noise := f.noise || samplesNoisy c, received := f.received ++ [samplesByte c] },
       some (if headerByte f.address + byteSum (f.received ++ [samplesByte c]) = 0 then .ok else .check)) := by
  simp only [Frame.receive, start, mark, stop, Bool.or_false, Bool.false_eq_true, Bool.not_true, if_false,
    List.length_append, List.length_singleton]
  rw [if_neg (by omega)]
  split <;> rfl

end Receive

end Sys2Proof.Machine
end

section
/-! Responses and the ends of frames: the window of a FETCH frame hears its answer (R108, R111), and each event that ends
a frame records it and answers the step that waits (R110 to R112, R125 to R127, R170). -/

namespace Sys2Proof.Machine

/-- Settles O49: each clause is the event's equation, and the case of `Frame.receive` that its character makes. -/
theorem responsesAreHeard : Obligations.ResponsesAreHeard := by
  refine ⟨?opens, ?hears, ?falseStart, ?discards, ?allowance, ?marks⟩
  case opens =>
    intro s i f noisy runs frame shut fetch
    exact answers_event (fun p => p.openWindow i noisy) rfl runs (openWindow_eq noisy frame shut fetch)
  case hears =>
    intro s i f c runs frame window undecided start f' got
    have answers : ∀ g : Part → Part, s.part.hearCharacter i c = g s.part →
        Answers (.responseCharacterReceived i c) s g := fun g => answers_event (fun p => p.hearCharacter i c) rfl runs
    refine ⟨fun mark => answers _ ?_, fun mark stop => answers _ ?_, fun mark stop room => answers _ ?_,
      fun mark stop full noStop noReload unheard => answers _ ?_⟩
    · exact hearCharacter_goesOn frame window undecided (receive_mark start mark)
    · exact hearCharacter_goesOn frame window undecided (receive_framing start mark stop)
    · exact hearCharacter_goesOn frame window undecided (receive_joins start mark stop room)
    · rw [hearCharacter_ends frame window undecided (receive_last start mark stop full)]
      exact (endFrame_unheard unheard).trans (afterFrame_plain _ _ noStop noReload)
  case falseStart =>
    intro s i f c runs frame window undecided start
    exact answers_event (fun p => p.hearCharacter i c) rfl runs
      (hearCharacter_goesOn frame window undecided (receive_falseStart start))
  case discards =>
    intro s i c runs outside
    exact leaves_event (fun p => p.hearCharacter i c) rfl runs (hearCharacter_discards c outside) rfl rfl
  case allowance =>
    intro s i f runs frame window undecided silent
    refine answers_event (fun p => p.allowanceEnds i) rfl runs ?_
    simp [Part.allowanceEnds, windowFrame_of frame window, undecided, silent, Part.setFrame]
  case marks =>
    intro s i f runs frame window
    refine answers_event (fun p => p.falseStartBit i) rfl runs ?_
    simp [Part.falseStartBit, windowFrame_of frame window, Frame.mark, Part.setFrame]

/-! ### The ends of a frame -/

/-- On this state the command ends frame `f` of station `i` with a result. -/
def Instr.EndsFrame (c : Instr) (s : State) (i : StationId) (f : Frame) (r : FrameResult) : Prop :=
  ∃ event : Part → Part, exec c s = s.event event ∧ event s.part = s.part.endFrame i f r

section Ends
variable {c : Instr} {s : State} {i : StationId} {f g : Frame} {r : FrameResult} {t : Step}

theorem bitError_ends (noisy : Bool) (h : (s.part.station i).lc.frame = some f) (hw : f.window = false) :
    Instr.EndsFrame (.bitError i noisy) s i { f with noise := f.noise || noisy } .bitError :=
  ⟨fun p => p.bitFault i noisy, rfl, bitFault_eq noisy h hw⟩

theorem frameEnd_ends (noisy : Bool) (h : (s.part.station i).lc.frame = some f) (hw : f.window = false)
    (hf : f.fetch = false) : Instr.EndsFrame (.frameEnd i noisy) s i { f with noise := f.noise || noisy } .ok :=
  ⟨fun p => p.sendEnds i noisy, rfl, sendEnds_eq noisy h hw hf⟩

theorem windowClose_ends (noisy : Bool) (h : (s.part.station i).lc.frame = some f) (hw : f.window = true) :
    Instr.EndsFrame (.responseWindowClose i noisy) s i
      { f with noise := f.noise || (noisy && f.decided.isNone) } (f.decided.getD .short) :=
  ⟨fun p => p.closeWindow i noisy, rfl, closeWindow_eq noisy h hw⟩

theorem lastCharacter_ends {x : CharSamples} (h : (s.part.station i).lc.frame = some f) (hw : f.window = true)
    (hd : f.decided = none) (start : majority x.start = false) (mark : majority x.mark = false)
    (stop : majority x.stop = true) (full : f.length ≤ f.received.length) :
    Instr.EndsFrame (.responseCharacterReceived i x) s i
      { f with noise := f.noise || samplesNoisy x, received := f.received ++ [samplesByte x] }
      (if headerByte f.address + byteSum (f.received ++ [samplesByte x]) = 0 then .ok else .check) :=
  ⟨fun p => p.hearCharacter i x, rfl, hearCharacter_ends h hw hd (receive_last start mark stop full)⟩

variable (ends : Instr.EndsFrame c s i g r) (runs : s.part.Runs)
include ends runs

theorem Instr.EndsFrame.answers {change : Part → Part} (h : s.part.endFrame i g r = change s.part) :
    Answers c s change :=
  have ⟨event, command, same⟩ := ends
  answers_event event command runs (same.trans h)

/-- A pending STOP completes with what its take removed (R126). -/
theorem Instr.EndsFrame.stop {removed : Nat} (hs : (s.part.station i).lc.pendingStop = true)
    (works : s.part.Works i t (.sendStop removed)) :
    Answers c s fun p => ((p.endFrameRecord i g r).setLc i fun l =>
      { l with pendingStop := false, state := .quiet }).completeStep i (.done 0 removed 0) :=
  ends.answers runs ((endFrame_stop works).trans (by rw [afterFrame_stops _ _ hs]))

variable (hs : (s.part.station i).lc.pendingStop = false)
include hs

/-- A pending START is loaded and completes (R125). -/
theorem Instr.EndsFrame.start {enabled clamped : Nat} {table : Vector Entry 16}
    (hr : (s.part.station i).lc.pendingReload = some table) (works : s.part.Works i t (.sendStart enabled clamped)) :
    Answers c s fun p => ((p.endFrameRecord i g r).loadSchedule i table).completeStep i
      { verdict := .none, reason := .ok, flags := if clamped = 0 then 0 else resLimited, value := enabled
        aux := clamped, attempts := 0, unit := 0 } := by
  refine ends.answers runs ((endFrame_start works).trans ?_)
  rw [afterFrame_loads _ _ hs hr]
  simp [startResult, Result.done, flagIf]

variable (hr : (s.part.station i).lc.pendingReload = none)
include hr

/-- With nothing pending, and no step that hears frames, the frame's record is all. -/
theorem Instr.EndsFrame.unheard (silent : (s.part.station i).walker.work.hearsFrames = false) :
    Answers c s fun p => p.endFrameRecord i g r :=
  ends.answers runs ((endFrame_unheard silent).trans (afterFrame_plain _ _ hs hr))

/-- A ONCE that waits for the frame completes with its result and NOISE (R127). -/
theorem Instr.EndsFrame.once (works : s.part.Works i t (.sendOnce g.entry true)) :
    Answers c s fun p => (p.endFrameRecord i g r).completeStep i
      { verdict := .none, reason := .ok, flags := 0, value := r.code.toNat
        aux := if g.noise = true then 1 else 0, attempts := 0, unit := 0 } := by
  refine ends.answers runs ((endFrame_once works).trans ?_)
  rw [afterFrame_plain _ _ hs hr]
  cases g.noise <;> rfl

variable {w : ListenWork} (works : s.part.Works i t (.listen w)) (fetch : g.fetch = true)
  (entry : w.params.entry = g.entry)
include works fetch entry

/-- A LISTEN of the entry hears the frame's end (R170). -/
theorem Instr.EndsFrame.listen : Answers c s fun p => Part.conclude i
    ((p.endFrameRecord i g r).setWork i (.listen (w.hear (p.station i).st g r).1),
     (w.hear (p.station i).st g r).2) :=
  ends.answers runs ((endFrame_listen works fetch entry).trans (by rw [afterFrame_plain _ _ hs hr]))

/-- A bad completion is a miss (R170). -/
theorem Instr.EndsFrame.listenMisses (bad : r ≠ .ok) : Answers c s fun p => (p.endFrameRecord i g r).setWork i (.listen
    { w with attempts := if w.attempts < 65535 then w.attempts + 1 else w.attempts
             hits := 0, lastMiss := some (.frame r), noise := w.noise || g.noise }) := by
  have heard := ends.listen runs hs hr works fetch entry
  simp only [ListenWork.hear, if_neg bad] at heard
  exact heard

end Ends

/-- Settles O48: each event that ends a frame, then what its end gives the step that waits. -/
theorem framesEnd : Obligations.FramesEnd := by
  refine ⟨?unheard, ?closes, ?onceOk, ?onceBad, ?startOk, ?startBad, ?window, ?misses, ?good, ?stops⟩
  case unheard =>
    intro s i f noisy runs frame shut noStop noReload silent
    exact ⟨(bitError_ends noisy frame shut).unheard runs noStop noReload silent, fun send =>
      (frameEnd_ends noisy frame shut send).unheard runs noStop noReload silent⟩
  case closes =>
    intro s i f noisy runs frame window noStop noReload silent
    exact (windowClose_ends noisy frame window).unheard runs noStop noReload silent
  case onceOk =>
    intro s i f noisy t runs frame shut send noStop noReload works
    exact (frameEnd_ends noisy frame shut send).once runs noStop noReload works
  case onceBad =>
    intro s i f noisy t runs frame shut noStop noReload works
    exact (bitError_ends noisy frame shut).once runs noStop noReload works
  case startOk =>
    intro s i f noisy t table enabled clamped runs frame shut send noStop reload works
    exact (frameEnd_ends noisy frame shut send).start runs noStop reload works
  case startBad =>
    intro s i f noisy t table enabled clamped runs frame shut noStop reload works
    exact (bitError_ends noisy frame shut).start runs noStop reload works
  case window =>
    intro s i f g r c t runs frame window how
    have ends : Instr.EndsFrame c s i g r ∧ g.entry = f.entry := by
      obtain ⟨noisy, rfl, rfl, rfl⟩ | ⟨x, rfl, undecided, start, mark, stop, full, rfl, rfl⟩ := how
      · exact ⟨windowClose_ends noisy frame window, rfl⟩
      · exact ⟨lastCharacter_ends frame window undecided start mark stop full, rfl⟩
    obtain ⟨ends, entry⟩ := ends
    exact ⟨fun noStop noReload works => ends.once runs noStop noReload (by rw [entry]; exact works),
      fun removed pending works => ends.stop runs pending works,
      fun enabled clamped table noStop reload works => ends.start runs noStop reload works⟩
  case misses =>
    intro s i f g r c t w runs frame fetch noStop noReload works entry how
    have ends : Instr.EndsFrame c s i g r ∧ g.fetch = f.fetch ∧ g.entry = f.entry ∧ r ≠ .ok := by
      obtain ⟨noisy, rfl, window, rfl, rfl, bad⟩ | ⟨noisy, rfl, shut, rfl, rfl⟩ |
        ⟨x, rfl, window, undecided, start, mark, stop, full, sum, rfl, rfl⟩ := how
      · exact ⟨windowClose_ends noisy frame window, rfl, rfl, bad⟩
      · exact ⟨bitError_ends noisy frame shut, rfl, rfl, nofun⟩
      · have last := lastCharacter_ends frame window undecided start mark stop full
        rw [if_neg sum] at last
        exact ⟨last, rfl, rfl, nofun⟩
    obtain ⟨ends, sameFetch, sameEntry, bad⟩ := ends
    exact ends.listenMisses runs noStop noReload works (sameFetch.trans fetch) (entry.trans sameEntry.symm) bad
  case good =>
    intro s i f c t w runs frame window fetch undecided noStop noReload works entry start mark stop full got sum
    have last := lastCharacter_ends frame window undecided start mark stop full
    rw [if_pos sum] at last
    have heard := last.listen runs noStop noReload works fetch entry
    simp only [ListenWork.hear, if_true] at heard
    exact heard
  case stops =>
    intro s i f noisy t removed runs frame shut send pending works
    exact ⟨(frameEnd_ends noisy frame shut send).stop runs pending works,
      (bitError_ends noisy frame shut).stop runs pending works⟩

end Sys2Proof.Machine
end

section
/-! What a frame's end leaves in its reception entry (R122, R123): the bytes that each of its writes leaves, and the
line's own copy. -/

namespace Sys2Proof.Machine

/-! ### Words in memory -/

theorem readLE_same {m m' : Memory} {x n : Nat} (h : m.SameIn m' x n) : m'.readLE x n = m.readLE x n := by
  induction n generalizing x with
  | zero => rfl
  | succ n ih =>
    rw [Memory.readLE, Memory.readLE, h x (Nat.le_refl x) (by omega), ih fun a low high => h a (by omega) (by omega)]

theorem readLE_writeLE_word {m : Memory} {x : Nat} (v : Word) (hw : m.wf = true) (hx : x + 4 ≤ Config.memoryEnd) :
    (m.writeLE x 4 v.toNat).readLE x 4 = v.toNat := by
  rw [readLE_writeLE_same _ _ _ hw hx]
  exact Nat.mod_eq_of_lt v.isLt

/-- The half words of a word. -/
theorem readLE_word2 {m : Memory} {x : Nat} {a b : BitVec 16} (h : m.readLE x 4 = (word2 a b).toNat) :
    m.readLE x 2 = a.toNat ∧ m.readLE (x + 2) 2 = b.toNat := by
  have low := a.isLt
  rw [word2_toNat] at h
  obtain ⟨first, second⟩ := readLE_parts (n := 2) (k := 2) h
  exact ⟨by omega, by omega⟩

theorem read_toNat {m : Memory} {x : Nat} {b : Byte} (h : m.readLE x 1 = b.toNat) : m.read x = b := by
  rw [read_of_readLE_one h, n8, BitVec.ofNat_toNat, BitVec.setWidth_eq]

/-- The bytes of a word. -/
theorem read_word4 {m : Memory} {x : Nat} {a b c d : Byte} (h : m.readLE x 4 = (word4 a b c d).toNat) :
    m.read x = a ∧ m.read (x + 1) = b ∧ m.read (x + 2) = c ∧ m.read (x + 3) = d := by
  have la := a.isLt
  have lb := b.isLt
  have lc := c.isLt
  rw [word4_toNat] at h
  obtain ⟨first, rest⟩ := readLE_parts (n := 1) (k := 3) h
  obtain ⟨second, rest⟩ := readLE_parts (n := 1) (k := 2) rest
  obtain ⟨third, fourth⟩ := readLE_parts (n := 1) (k := 1) rest
  exact ⟨read_toNat (by omega), read_toNat (by omega), read_toNat (x := x + 1 + 1) (by omega),
    read_toNat (x := x + 1 + 1 + 1) (by omega)⟩

/-! ### The writes of a reception entry -/

section Writes
variable {m : Memory} {x : Nat} {e : Reception} {fetch good : Bool}

theorem read_writeAnswer_other {y : Nat} (data : good = true → fetch = true → y < x ∨ x + e.data.length ≤ y)
    (time : good = true → y < x + 12 ∨ x + 16 ≤ y) : (m.writeAnswer x e fetch good).read y = m.read y := by
  unfold Memory.writeAnswer
  split
  · rename_i ok
    rw [read_writeLE_outside _ _ _ _ _ (time ok)]
    split
    · rename_i answer
      exact read_writeBytes_outside _ _ _ _ (data ok answer)
    · rfl
  · rfl

theorem read_writeFigures_other {y : Nat} (state : y < x + 8 ∨ x + 12 ≤ y) (counts : y < x + 16 ∨ x + 20 ≤ y) :
    (m.writeFigures x e).read y = m.read y := by
  rw [Memory.writeFigures, read_writeLE_outside _ _ _ _ _ state, read_writeLE_outside _ _ _ _ _ counts]

theorem read_writeSequence_other {y : Nat} (h : fetch = true → y < x + 24 ∨ x + 28 ≤ y) :
    (m.writeSequence x e fetch).read y = m.read y := by
  unfold Memory.writeSequence
  split
  · rename_i answer
    exact read_writeLE_outside _ _ _ _ _ (h answer)
  · rfl

/-- A byte that no write of the entry meets. -/
theorem read_writeReception_other {y : Nat} (data : good = true → fetch = true → y < x ∨ x + e.data.length ≤ y)
    (state : y < x + 8 ∨ x + 12 ≤ y) (time : good = true → y < x + 12 ∨ x + 16 ≤ y)
    (counts : y < x + 16 ∨ x + 20 ≤ y) (sequence : fetch = true → y < x + 24 ∨ x + 28 ≤ y) :
    (m.writeReception x e fetch good).read y = m.read y := by
  rw [Memory.writeReception, read_writeSequence_other sequence, read_writeFigures_other state counts,
    read_writeAnswer_other data time]

theorem writeAnswer_wf (hw : m.wf = true) : (m.writeAnswer x e fetch good).wf = true := by
  unfold Memory.writeAnswer
  split
  · refine writeLE_wf _ _ _ ?_
    split
    · exact writeBytes_wf _ _ hw
    · exact hw
  · exact hw

theorem writeFigures_wf (hw : m.wf = true) : (m.writeFigures x e).wf = true := writeLE_wf _ _ _ (writeLE_wf _ _ _ hw)

variable (hw : m.wf = true) (hx : x + 32 ≤ Config.memoryEnd)
include hw hx

/-- The word of length, last error and NOISE, and the counts. -/
theorem writeReception_figures :
    (m.writeReception x e fetch good).readLE (x + 8) 4 = (word4 (n8 e.length) e.lastError.code (bit e.noise) 0).toNat ∧
    (m.writeReception x e fetch good).readLE (x + 16) 4 = (word2 (n16 e.good) (n16 e.bad)).toNat := by
  have written := writeAnswer_wf (x := x) (e := e) (fetch := fetch) (good := good) hw
  unfold Memory.writeReception
  constructor
  · rw [readLE_same fun y _ _ => read_writeSequence_other fun _ => by omega]
    exact readLE_writeLE_word _ (writeLE_wf _ _ _ written) (by omega)
  · rw [readLE_same fun y _ _ => read_writeSequence_other fun _ => by omega, Memory.writeFigures,
      readLE_writeLE_outside _ _ _ _ _ _ (by omega)]
    exact readLE_writeLE_word _ written (by omega)

theorem writeReception_time (ok : good = true) :
    (m.writeReception x e fetch good).readLE (x + 12) 4 = e.time.toNat := by
  unfold Memory.writeReception
  rw [readLE_same fun y _ _ => read_writeSequence_other fun _ => by omega,
    readLE_same fun y _ _ => read_writeFigures_other (by omega) (by omega), Memory.writeAnswer, if_pos ok]
  refine readLE_writeLE_word _ ?_ (by omega)
  split
  · exact writeBytes_wf _ _ hw
  · exact hw

theorem writeReception_sequence (answer : fetch = true) :
    (m.writeReception x e fetch good).readLE (x + 24) 4 = (word2 e.sequence 0).toNat := by
  rw [Memory.writeReception, Memory.writeSequence, if_pos answer]
  exact readLE_writeLE_word _ (writeFigures_wf (writeAnswer_wf hw)) (by omega)

theorem writeReception_data (ok : good = true) (answer : fetch = true) (size : e.data.length = 8) {n : Nat}
    (hn : n < 8) : (m.writeReception x e fetch good).read (x + n) = e.data.getD n 0 := by
  have hn' : n < e.data.length := by omega
  rw [Memory.writeReception, read_writeSequence_other fun _ => by omega,
    read_writeFigures_other (by omega) (by omega), Memory.writeAnswer, if_pos ok, if_pos answer,
    read_writeLE_outside _ _ _ _ _ (by omega), read_writeBytes_inside hw hn' (by omega), List.getD_eq_getElem _ _ hn']

end Writes

/-! ### The line's own copy -/

section Copy
variable (e : Reception) (f : Frame) (r : FrameResult) (now : Time)

/-- What a frame's end makes of its entry, item by item (R122, R123). -/
theorem complete_eq : e.complete f r now =
    { data := if f.fetch = true ∧ r = .ok then f.received.take f.length ++ List.replicate (8 - f.length) 0 else e.data
      length := if f.fetch = true ∧ r = .ok then f.length else e.length
      lastError := r, noise := f.noise
      time := if r = .ok then now else e.time
      good := if r = .ok ∧ e.good < 65535 then e.good + 1 else e.good
      bad := if r ≠ .ok ∧ e.bad < 65535 then e.bad + 1 else e.bad
      overrun := e.overrun
      sequence := if f.fetch then e.sequence + 1 else e.sequence } := by
  unfold Reception.complete
  by_cases ok : r = .ok <;> by_cases answer : f.fetch = true <;> simp [ok, answer, countUp]

end Copy

theorem receptionEntry_inside (i : StationId) (e : Fin 16) : Config.receptionEntry i e + 32 ≤ Config.memoryEnd := by
  simp only [Config.receptionEntry, Config.page, Config.memoryEnd]
  omega

/-! ### The part after a frame's end -/

section End
variable (p : Part) (i : StationId) (f : Frame) (r : FrameResult)

theorem endFrameRecord_mem : (p.endFrameRecord i f r).mem =
    p.mem.writeReception (Config.receptionEntry i f.entry)
      ((p.station i).lc.reception[f.entry].complete f r p.rackTime) f.fetch (decide (r = .ok)) := by
  rw [Part.endFrameRecord, recordFrame_eq]
  rfl

theorem endFrameRecord_rack : p.endFrameRecord i f r =
    { p with mem := (p.endFrameRecord i f r).mem, stations := (p.endFrameRecord i f r).stations
             touched := (p.endFrameRecord i f r).touched } := by
  rw [Part.endFrameRecord, recordFrame_eq]
  rfl

end End

/-- Settles O47: the frame's end as writes of the entry, each range of which one write leaves. -/
theorem frameEndsUpdateRecords : Obligations.FrameEndsUpdateRecords := by
  intro p i f r l q old new
  have copy : l.reception[f.entry].complete f r p.rackTime = new := complete_eq _ f r p.rackTime
  have memory : q.mem = p.mem.writeReception (Config.receptionEntry i f.entry) new f.fetch (decide (r = .ok)) :=
    copy ▸ endFrameRecord_mem p i f r
  have inside := receptionEntry_inside i f.entry
  refine ⟨(endFrameRecord_local p i f r).others, endFrameRecord_rack p i f r, fun hw short answered => ?_, ?_,
    fun a outside short => ?_⟩
  · have half : ∀ v, (n16 v).toNat = v % 65536 := fun v => by simp [n16]
    have size : decide (r = .ok) = true → f.fetch = true → new.data.length = 8 := fun ok answer => by
      have enough := answered answer (of_decide_eq_true ok)
      simp only [new, if_pos (And.intro answer (of_decide_eq_true ok)), List.length_append, List.length_take,
        List.length_replicate]
      omega
    obtain ⟨state, counts⟩ := writeReception_figures (e := new) (fetch := f.fetch) (good := decide (r = .ok)) hw inside
    obtain ⟨length, lastError, noise, reserved⟩ := read_word4 state
    obtain ⟨good, bad⟩ := readLE_word2 counts
    rw [half] at good bad
    rw [memory]
    intro x
    refine ⟨?data, length, lastError, ?noise, reserved, ?time, good, bad, ?overrun, ?sequence, ?rest⟩
    case data =>
      split
      · rename_i ok
        exact fun n hn => writeReception_data hw inside (decide_eq_true ok.2) ok.1
          (size (decide_eq_true ok.2) ok.1) hn
      · rename_i not
        exact fun y low high => read_writeReception_other
          (fun ok answer => absurd ⟨answer, of_decide_eq_true ok⟩ not) (by omega) (fun _ => by omega) (by omega)
          fun _ => by omega
    case noise =>
      rw [noise]
      cases h : f.noise <;> simp [new, h, bit]
    case time =>
      split
      · rename_i ok
        rw [writeReception_time hw inside (decide_eq_true ok)]
        simp only [new, if_pos ok]
      · rename_i bad
        exact fun y low high => read_writeReception_other (fun ok => absurd (of_decide_eq_true ok) bad) (by omega)
          (fun ok => absurd (of_decide_eq_true ok) bad) (by omega) fun _ => by omega
    case overrun =>
      exact fun y low high => read_writeReception_other (fun ok answer => by rw [size ok answer]; omega) (by omega)
        (fun _ => by omega) (by omega) fun _ => by omega
    case sequence =>
      split
      · rename_i answer
        exact readLE_word2 (writeReception_sequence hw inside answer)
      · rename_i send
        exact fun y low high => read_writeReception_other (fun _ answer => absurd answer send) (by omega)
          (fun _ => by omega) (by omega) fun answer => absurd answer send
    case rest =>
      exact fun y low high => read_writeReception_other (fun ok answer => by rw [size ok answer]; omega) (by omega)
        (fun _ => by omega) (by omega) fun _ => by omega
  · rw [endFrameRecord_station, ← copy]
    rfl
  · have size : decide (r = .ok) = true → f.fetch = true → new.data.length ≤ 8 := fun ok answer => by
      simp only [new, if_pos (And.intro answer (of_decide_eq_true ok)), List.length_append, List.length_take,
        List.length_replicate]
      omega
    rw [memory]
    exact read_writeReception_other (fun ok answer => by have := size ok answer; omega) (by omega) (fun _ => by omega)
      (by omega) fun _ => by omega

end Sys2Proof.Machine
end

section
/-! The frames of the cluster line (R107, R109, R121): levels and characters, the header with its parity, the check
character, and the bound field of a SEND frame. -/

namespace Sys2Proof.Machine

/-! ### Levels on the wire (R107, R109) -/

theorem characterLevels_length (stopBits : Nat) (c : Byte × Bool) :
    (characterLevels stopBits c).length = characterBits stopBits := by
  simp only [characterLevels, characterBits, List.length_append, List.length_cons, List.length_map, List.length_range,
    List.length_replicate]
  omega

theorem characterLevels_data (stopBits : Nat) (c : Byte × Bool) {k : Nat} (hk : k < 8) :
    (characterLevels stopBits c)[k + 1]? = some (c.1.getLsbD k) := by
  rw [characterLevels, List.getElem?_append_left (by simp; omega), List.getElem?_cons_succ, List.getElem?_map,
    List.getElem?_range hk]
  rfl

theorem characterLevels_stop (stopBits : Nat) (c : Byte × Bool) {k : Nat} (hk : k < stopBits) :
    (characterLevels stopBits c)[10 + k]? = some true := by
  rw [characterLevels, List.getElem?_append_right (by simp; omega)]
  simp only [List.length_cons, List.length_map, List.length_range]
  rw [show 10 + k - (8 + 1) = k + 1 by omega, List.getElem?_cons_succ, List.getElem?_replicate, if_pos hk]

/-- The bit times of a frame are its break's, its delimiter's and its characters'. -/
theorem levels_length (f : Frame) (stopBits : Nat) :
    (f.levels stopBits).length = 14 + f.characters.length * characterBits stopBits := by
  have characters : ∀ l : List (Byte × Bool),
      (l.flatMap (characterLevels stopBits)).length = l.length * characterBits stopBits := by
    intro l
    induction l with
    | nil => simp
    | cons c l ih =>
      rw [List.flatMap_cons, List.length_append, ih, characterLevels_length, List.length_cons]
      ring
  rw [Frame.levels, List.length_append, List.length_replicate, List.length_cons, characters]
  omega

/-! ### Characters (R109) -/

theorem characters_fetch {f : Frame} (h : f.fetch = true) : f.characters = [(headerByte f.address, true)] := by
  simp [Frame.characters, h]

theorem characters_send {f : Frame} (h : f.fetch = false) :
    f.characters = (headerByte f.address, true) ::
      (f.bytes.map (fun b => (b, false)) ++ [(checkByte (headerByte f.address) f.bytes, false)]) := by
  simp [Frame.characters, h]

theorem byteSum_eq (l : List Byte) : byteSum l = l.sum := List.sum_eq_foldl.symm

/-- The check character closes the sum. -/
theorem byteSum_check (h : Byte) (bs : List Byte) : byteSum (h :: (bs ++ [checkByte h bs])) = 0 := by
  rw [checkByte, byteSum_eq, byteSum_eq, List.sum_cons, List.sum_append, List.sum_singleton]
  ring

/-! ### The header (R109) -/

set_option maxRecDepth 8000 in
theorem headerByte_parity : ∀ a < 128, (headerByte a).toNat % 128 = a ∧
    ((List.range 8).countP fun k => (headerByte a).getLsbD k) % 2 = 0 := by decide

/-! ### The bound field (R121) -/

theorem overlay_length (data : List Byte) (position : Nat) (bs : List Byte) :
    (overlay data position bs).length = data.length := by
  induction bs generalizing data position with
  | nil => rfl
  | cons b bs ih => rw [overlay, ih, List.length_set]

theorem overlay_outside (data : List Byte) (position : Nat) (bs : List Byte) {n : Nat}
    (h : n < position ∨ position + bs.length ≤ n) : (overlay data position bs)[n]? = data[n]? := by
  induction bs generalizing data position with
  | nil => rfl
  | cons b bs ih =>
    rw [List.length_cons] at h
    rw [overlay, ih _ _ (by omega), List.getElem?_set_ne (by omega)]

theorem overlay_inside (data : List Byte) (position : Nat) (bs : List Byte) {k : Nat} (hk : k < bs.length)
    (h : position + bs.length ≤ data.length) : (overlay data position bs)[position + k]? = bs[k]? := by
  induction bs generalizing data position k with
  | nil => exact absurd hk (Nat.not_lt_zero k)
  | cons b bs ih =>
    rw [List.length_cons] at h hk
    rw [overlay]
    cases k with
    | zero =>
      rw [overlay_outside _ _ _ (by omega), Nat.add_zero, List.getElem?_set_self (by omega)]
      rfl
    | succ k =>
      rw [show position + (k + 1) = position + 1 + k by omega, List.getElem?_cons_succ]
      exact ih _ _ (by omega) (by rw [List.length_set]; omega)

theorem n8_ofInt (v : Int) : n8 (BitVec.ofInt 16 v).toNat = BitVec.ofInt 8 v := by
  refine BitVec.eq_of_toNat_eq ?_
  simp only [n8, BitVec.toNat_ofNat, BitVec.toNat_ofInt]
  omega

theorem n8_ofInt_high (v : Int) : n8 ((BitVec.ofInt 16 v).toNat / 256) = BitVec.ofInt 8 (v / 256) := by
  refine BitVec.eq_of_toNat_eq ?_
  simp only [n8, BitVec.toNat_ofNat, BitVec.toNat_ofInt]
  omega

theorem boundBytes_one (v : Int) (order : Nat) : boundBytes v 1 order = [BitVec.ofInt 8 v] := by
  simp only [boundBytes, n8_ofInt, if_true]

theorem boundBytes_two (v : Int) (order : Nat) : boundBytes v 2 order =
    if order = 0 then [BitVec.ofInt 8 v, BitVec.ofInt 8 (v / 256)] else [BitVec.ofInt 8 (v / 256), BitVec.ofInt 8 v] := by
  simp only [boundBytes, n8_ofInt, n8_ofInt_high]
  rw [if_neg (by decide)]

theorem saturate_eq {low high : Int} (h : low ≤ high) (v : Int) : saturate low high v = max low (min high v) := by
  unfold saturate
  split
  · omega
  · split <;> omega

/-- Rounding away is rounding of the magnitude (R121). -/
theorem roundAway_1024 (v : Int) :
    roundAway v 1024 = if v < 0 then -(((v.natAbs : Int) + 512) / 1024) else ((v.natAbs : Int) + 512) / 1024 := by
  unfold roundAway
  split <;> omega

/-- The range a bound value is saturated to (R121). -/
def boundRange (source : Channel) (width : Nat) : Int × Int :=
  match source with
  | .mv _ => if width = 1 then (-128, 127) else (-32768, 32767)
  | .pg _ | .lv _ => if width = 1 then (0, 255) else (0, 65535)

theorem boundValue_eq (source : Channel) (present ratio : Int) (width : Nat) :
    boundValue source present ratio width =
      max (boundRange source width).1 (min (boundRange source width).2 (roundAway (present * ratio) 1024)) := by
  unfold boundValue boundRange
  cases source <;> dsimp only <;> split <;> exact saturate_eq (by decide) _

/-- The code of a channel (12.8). -/
def Channel.number : Channel → Nat
  | .pg n => n.val
  | .lv n => 4 + n.val
  | .mv n => 8 + n.val

theorem ofCode_number (c : Channel) : Channel.ofCode c.number = some c := by
  cases c with
  | pg n => simp [Channel.ofCode, Channel.number, index]
  | lv n =>
    have := n.isLt
    simp [Channel.ofCode, Channel.number, index]
    omega
  | mv n => simp [Channel.ofCode, Channel.number, index]; omega

/-- The bytes of a bound SEND frame: the payload's, and the field over them (R121). -/
theorem frame_bytes_bound {e : Entry} (k : Fin 16) (image : Stimulus) {source : Channel} (send : e.direction = 0)
    (bound : e.bound = 1) (code : e.source = source.number) :
    (e.frame k image).bytes = overlay (e.payload.take e.length) e.position
      (boundBytes (boundValue source (image.value source) e.ratio e.width) e.width e.order) := by
  simp [Entry.frame, Entry.dataBytes, send, bound, code, ofCode_number]

section Field
variable {e : Entry} {bs : List Byte} (fits : e.position + bs.length ≤ e.length) (full : e.length ≤ e.payload.length)
include fits full

/-- Where the field lies within the payload, its bytes stand at its position and the others are the payload's. -/
theorem overlay_payload :
    (overlay (e.payload.take e.length) e.position bs).length = e.length ∧
    (∀ n < e.length, n < e.position ∨ e.position + bs.length ≤ n →
      (overlay (e.payload.take e.length) e.position bs)[n]? = e.payload[n]?) ∧
    ∀ n < bs.length, (overlay (e.payload.take e.length) e.position bs)[e.position + n]? = bs[n]? := by
  have size : (e.payload.take e.length).length = e.length := by
    rw [List.length_take]
    omega
  refine ⟨by rw [overlay_length, size], fun n hn outside => ?_, fun n hn => overlay_inside _ _ _ hn (by omega)⟩
  rw [overlay_outside _ _ _ outside, List.getElem?_take_of_lt hn]

end Field

/-- Settles O46: levels, characters and header as their lemmas give them; the bound field by its width and order. -/
theorem framesSumToZero : Obligations.FramesSumToZero := by
  refine ⟨?character, ?levels, fun f => characters_fetch, headerByte_parity, ?unbound, ?bound, ?sum⟩
  case character =>
    intro stopBits c
    exact ⟨characterLevels_length stopBits c, rfl, fun k => characterLevels_data stopBits c, rfl,
      fun k => characterLevels_stop stopBits c⟩
  case levels =>
    intro f stopBits
    refine ⟨by simp [Frame.levels], ?_⟩
    rw [levels_length]
    split
    · rename_i fetch
      rw [characters_fetch fetch, List.length_singleton, Nat.one_mul, fetchHeadBits]
    · rename_i send
      rw [characters_send (by simpa using send), sendFrameBits]
      simp
  case unbound =>
    intro e k image send unbound
    simp [Entry.frame, Entry.dataBytes, send, unbound]
  case bound =>
    intro e k image source send bound code widths fits full present product magnitude range v low high bytes
    have number : e.source = source.number := code.trans (by cases source <;> rfl)
    have value : boundValue source (image.value source) e.ratio e.width = v := by
      rw [boundValue_eq, roundAway_1024]
      cases source <;> rfl
    have written : bytes = overlay (e.payload.take e.length) e.position (boundBytes v e.width e.order) :=
      (frame_bytes_bound k image send bound number).trans (by rw [value])
    have size : (boundBytes v e.width e.order).length = e.width := by
      obtain one | two := widths
      · rw [one, boundBytes_one]
        rfl
      · rw [two, boundBytes_two]
        split <;> rfl
    obtain ⟨length, outside, inside⟩ := overlay_payload (bs := boundBytes v e.width e.order) (by omega) full
    rw [size] at outside inside
    rw [written]
    refine ⟨by simp [Entry.frame, send], rfl, length, outside, fun one => ?_, fun two order => ?_, fun two order => ?_⟩
    · refine (inside 0 (by omega)).trans ?_
      rw [one, boundBytes_one]
      rfl
    · have field : boundBytes v e.width e.order = [low, high] := by rw [two, boundBytes_two, if_pos order]
      exact ⟨(inside 0 (by omega)).trans (by rw [field]; rfl), (inside 1 (by omega)).trans (by rw [field]; rfl)⟩
    · have field : boundBytes v e.width e.order = [high, low] := by
        rw [two, boundBytes_two, if_neg (by omega)]
      exact ⟨(inside 0 (by omega)).trans (by rw [field]; rfl), (inside 1 (by omega)).trans (by rw [field]; rfl)⟩
  case sum =>
    intro f send
    rw [characters_send send]
    refine ⟨?_, by simp, by simp [Function.comp_def], by simp, rfl⟩
    simpa [Function.comp_def] using byteSum_check (headerByte f.address) f.bytes

end Sys2Proof.Machine
end

section
/-! The due list and the schedule (R118 to R120, R124 to R127): the order an insertion keeps, an entry that falls due, a
frame that takes the wire, the load of a schedule, and what a SEND does at its take. -/

namespace Sys2Proof.Machine

/-! ### The order of the due list (R120) -/

/-- Item `a` of a due list goes before item `b`: the older key, and of equal keys the lower entry. -/
abbrev DueBefore (now : Time) (a b : Fin 16 × Time) : Prop :=
  keyAge now b.2 < keyAge now a.2 ∨ (keyAge now a.2 = keyAge now b.2 ∧ a.1 < b.1)

theorem insertDue_perm (now : Time) (e : Fin 16) (key : Time) (due : List (Fin 16 × Time)) :
    (insertDue now e key due).Perm ((e, key) :: due) := by
  induction due with
  | nil => exact .refl _
  | cons d due ih =>
    unfold insertDue
    split
    · exact .refl _
    · exact (ih.cons d).trans (.swap _ _ _)

theorem insertDue_pairwise {now : Time} {e : Fin 16} {key : Time} {due : List (Fin 16 × Time)}
    (sorted : due.Pairwise (DueBefore now)) (fresh : ∀ d ∈ due, d.1 ≠ e) :
    (insertDue now e key due).Pairwise (DueBefore now) := by
  induction due with
  | nil => exact List.pairwise_singleton _ _
  | cons d due ih =>
    obtain ⟨first, rest⟩ := List.pairwise_cons.mp sorted
    have other : d.1 ≠ e := fresh d List.mem_cons_self
    unfold insertDue
    split
    · rename_i before
      have head : DueBefore now (e, key) d := by
        dsimp only [DueBefore]
        omega
      refine List.pairwise_cons.mpr ⟨fun c hc => ?_, sorted⟩
      obtain rfl | hc := List.mem_cons.mp hc
      · exact head
      · have := first c hc
        dsimp only [DueBefore] at head this ⊢
        omega
    · rename_i after
      refine List.pairwise_cons.mpr ⟨fun c hc => ?_, ih rest fun c hc => fresh c (List.mem_cons_of_mem _ hc)⟩
      obtain rfl | hc := List.mem_cons.mp ((insertDue_perm now e key due).mem_iff.mp hc)
      · dsimp only [DueBefore] at after ⊢
        omega
      · exact first c hc

/-- An item whose key is that of every other, and whose entry is the greatest, goes last. -/
theorem insertDue_last {now key : Time} {e : Fin 16} {due : List (Fin 16 × Time)}
    (h : ∀ d ∈ due, d.2 = key ∧ d.1 < e) : insertDue now e key due = due ++ [(e, key)] := by
  induction due with
  | nil => rfl
  | cons d due ih =>
    obtain ⟨same, lower⟩ := h d List.mem_cons_self
    have after : ¬(keyAge now d.2 < keyAge now key ∨ keyAge now d.2 = keyAge now key ∧ e < d.1) := by
      rw [same]
      omega
    rw [insertDue, if_neg after, ih fun c hc => h c (List.mem_cons_of_mem _ hc)]
    rfl

/-! ### Changes no header shows -/

/-- A change of a station column that its header does not show, after another change, makes one change with it. -/
theorem modify_then (p : Part) (i : StationId) (f : Station → Station) {g : Station → Station}
    (hidden : ∀ x, (g x).header = x.header) : (p.modify i f).modify i g = p.modify i fun x => g (f x) := by
  refine modify_modify p i f g ?_
  rw [marks_header (hidden (f (p.station i))).symm, Station.marks, Station.marks, hidden (f (p.station i))]
  exact BitVec.or_zero.symm

theorem setLc_header {g : Line → Line} (hidden : ∀ l h, lineWords (g l) h = lineWords l h) (x : Station) :
    Station.header { x with lc := g x.lc } = x.header := by
  simp only [Station.header, hidden]

theorem setLc_setLc (p : Part) (i : StationId) (f : Line → Line) {g : Line → Line}
    (hidden : ∀ l h, lineWords (g l) h = lineWords l h) : (p.setLc i f).setLc i g = p.setLc i fun l => g (f l) :=
  modify_then p i _ (setLc_header hidden)

/-- Changes that agree on the line as it stands are the same change. -/
theorem setLc_congr {p : Part} {i : StationId} {f g : Line → Line} (h : f (p.station i).lc = g (p.station i).lc) :
    p.setLc i f = p.setLc i g := modify_congr p i _ _ (by rw [h])

/-! ### Falling due, and taking the wire (R119, R120) -/

section Due
variable {p : Part} {i : StationId} {e : Fin 16} {table : Vector Entry 16}

theorem entryDue_of (loaded : (p.station i).lc.schedule = some table) :
    p.entryDue i e = (table[e].enabled && p.reached (p.station i).lc.nextDue[e]) := by
  unfold Part.entryDue
  dsimp only
  rw [loaded]

theorem fallDue_fresh (loaded : (p.station i).lc.schedule = some table) (fresh : (p.station i).lc.isDue e = false) :
    p.fallDue i e = p.setLc i fun l =>
      { l with due := insertDue p.rackTime e l.nextDue[e] l.due
               nextDue := put l.nextDue e (l.nextDue[e] + BitVec.ofNat 32 table[e].period) } := by
  unfold Part.fallDue Part.joinDue
  dsimp only
  rw [loaded]
  simp only [fresh, Bool.false_eq_true, if_false]
  exact Eq.trans (setLc_setLc _ _ _ fun _ _ => rfl) (setLc_congr rfl)

theorem overrun_lc : ((p.overrun i e).station i).lc =
    (p.station i).lc.receive e fun r => { r with overrun := countUp 65535 r.overrun } := by
  rw [Part.overrun, Part.writeReceptionOverrun, poke32_station, setLc_station_same]

theorem fallDue_again (loaded : (p.station i).lc.schedule = some table) (due : (p.station i).lc.isDue e = true) :
    p.fallDue i e = (p.overrun i e).setLc i fun l =>
      { l with nextDue := put l.nextDue e (l.nextDue[e] + BitVec.ofNat 32 table[e].period) } := by
  unfold Part.fallDue Part.joinDue
  dsimp only
  rw [loaded]
  simp only [due, if_true]
  refine setLc_congr ?_
  rw [overrun_lc]
  rfl

/-- A line that is not RUNNING, or whose wire is not free, or with nothing due, starts no frame. -/
theorem startFrame_none (h : (p.station i).lc.state ≠ .running ∨ (p.station i).lc.frame ≠ none ∨
    (p.station i).lc.gap = true ∨ (p.station i).lc.due = []) : p.startFrame i = p := by
  unfold Part.startFrame
  dsimp only
  split
  · rename_i running free noGap due _
    simp [running, free, noGap, due] at h
  · rfl

/-- The head of the list takes the wire. -/
theorem startFrame_head {d : Fin 16 × Time} {rest : List (Fin 16 × Time)}
    (running : (p.station i).lc.state = .running) (free : (p.station i).lc.frame = none)
    (noGap : (p.station i).lc.gap = false) (due : (p.station i).lc.due = d :: rest)
    (loaded : (p.station i).lc.schedule = some table) :
    p.startFrame i = (p.setLc i fun l =>
      { l with due := rest, frame := some (table[d.1].frame d.1 (p.station i).st) }).setWalker i (·.onceStarts d.1) := by
  unfold Part.startFrame
  dsimp only
  rw [running, free, noGap, due, loaded]

end Due

/-! ### The load of a schedule (R118, R119, R125) -/

/-- An entry that falls due at the load itself (R119). -/
def Entry.atOnce (e : Entry) : Bool := e.enabled && decide (e.offset = 0)

/-- A time less than half the range ahead has been reached exactly if it is now. -/
theorem reached_ahead (p : Part) {n : Nat} (h : n < 2 ^ 31) :
    p.reached (p.rackTime + BitVec.ofNat 32 n) = decide (n = 0) := by
  unfold Part.reached
  rw [decide_eq_decide]
  bv_omega

/-- A loaded line before the entries of a list fall due: those of the list are due at their offsets, and what has
fallen due is due now and of lower entries. -/
structure Part.Loading (p : Part) (i : StationId) (table : Vector Entry 16) (l : List (Fin 16)) : Prop where
  loaded : (p.station i).lc.schedule = some table
  next : ∀ e ∈ l, (p.station i).lc.nextDue[e] = p.rackTime + BitVec.ofNat 32 table[e].offset
  due : ∀ d ∈ (p.station i).lc.due, d.2 = p.rackTime ∧ ∀ e ∈ l, d.1 < e

section Load
variable {p : Part} {i : StationId} {table : Vector Entry 16} {e : Fin 16} {l : List (Fin 16)}

theorem Part.Loading.entryDue (h : p.Loading i table (e :: l))
    (near : ∀ e : Fin 16, table[e].enabled = true → table[e].offset < 2 ^ 31) :
    p.entryDue i e = table[e].atOnce := by
  rw [entryDue_of h.loaded, h.next e List.mem_cons_self, Entry.atOnce]
  cases enabled : table[e].enabled with
  | false => rfl
  | true => rw [reached_ahead p (near e enabled)]

/-- The entry at the head of the list falls due at its place, the last. -/
theorem Part.Loading.fallDue (h : p.Loading i table (e :: l)) (now : table[e].offset = 0) :
    p.fallDue i e = p.setLc i fun l =>
      { l with due := l.due ++ [(e, p.rackTime)]
               nextDue := put l.nextDue e (p.rackTime + BitVec.ofNat 32 table[e].period) } := by
  have key : (p.station i).lc.nextDue[e] = p.rackTime := by
    rw [h.next e List.mem_cons_self, now]
    exact BitVec.add_zero _
  have lower : ∀ d ∈ (p.station i).lc.due, d.2 = p.rackTime ∧ d.1 < e := fun d hd =>
    ⟨(h.due d hd).1, (h.due d hd).2 e List.mem_cons_self⟩
  have fresh : (p.station i).lc.isDue e = false := by
    refine List.any_eq_false.mpr fun d hd => ?_
    simpa using (lower d hd).2.ne
  rw [fallDue_fresh h.loaded fresh]
  refine setLc_congr ?_
  rw [key, insertDue_last lower]

/-- Every entry of a list of rising entries that falls due at once joins the due list in its order. -/
theorem Part.Loading.fold (h : p.Loading i table l) (rising : l.Pairwise (· < ·))
    (near : ∀ e : Fin 16, table[e].enabled = true → table[e].offset < 2 ^ 31) :
    let q := l.foldl (fun q e => if q.entryDue i e then q.fallDue i e else q) p
    q.mem = p.mem ∧ ∃ next : Vector Time 16,
      (q.station i).lc =
        { (p.station i).lc with
          due := (p.station i).lc.due ++ (l.filter fun e => table[e].atOnce).map fun e => (e, p.rackTime)
          nextDue := next } ∧
      ∀ e : Fin 16, next[e] =
        if e ∈ l ∧ table[e].atOnce = true then p.rackTime + BitVec.ofNat 32 table[e].period
        else (p.station i).lc.nextDue[e] := by
  induction l generalizing p with
  | nil => exact ⟨rfl, (p.station i).lc.nextDue, by simp, fun e => by simp⟩
  | cons e l ih =>
    obtain ⟨first, rest⟩ := List.pairwise_cons.mp rising
    have other : e ∉ l := fun he => (first e he).false
    dsimp only [List.foldl_cons]
    rw [h.entryDue near]
    cases atOnce : table[e].atOnce with
    | false =>
      obtain ⟨mem, next, line, each⟩ := ih (p := p)
        ⟨h.loaded, fun c hc => h.next c (List.mem_cons_of_mem _ hc), fun d hd =>
          ⟨(h.due d hd).1, fun c hc => (h.due d hd).2 c (List.mem_cons_of_mem _ hc)⟩⟩ rest
      refine ⟨mem, next, by rw [List.filter_cons_of_neg (by simpa using atOnce)]; exact line,
        fun c => (each c).trans ?_⟩
      by_cases same : c = e
      · subst same
        simp only [atOnce, Bool.false_eq_true, and_false, if_false]
      · simp only [List.mem_cons, same, false_or]
    | true =>
      have now : table[e].offset = 0 := by
        simp only [Entry.atOnce, Bool.and_eq_true, decide_eq_true_eq] at atOnce
        exact atOnce.2
      rw [if_pos rfl, h.fallDue now]
      obtain ⟨mem, next, line, each⟩ := ih (p := p.setLc i fun l =>
          { l with due := l.due ++ [(e, p.rackTime)]
                   nextDue := put l.nextDue e (p.rackTime + BitVec.ofNat 32 table[e].period) })
        ⟨by rw [setLc_station_same]; exact h.loaded,
          fun c hc => by
            have differ : e ≠ c := (first c hc).ne
            rw [setLc_station_same]
            simpa [differ] using h.next c (List.mem_cons_of_mem _ hc),
          fun d hd => by
            rw [setLc_station_same] at hd
            obtain hd | hd := List.mem_append.mp hd
            · exact ⟨(h.due d hd).1, fun c hc => (h.due d hd).2 c (List.mem_cons_of_mem _ hc)⟩
            · rw [List.mem_singleton.mp hd]
              exact ⟨rfl, first⟩⟩ rest
      rw [setLc_station_same] at line each
      refine ⟨mem, next, ?_, fun c => (each c).trans ?_⟩
      · rw [List.filter_cons_of_pos (by simpa using atOnce), List.map_cons, List.append_cons]
        exact line
      · by_cases same : c = e
        · subst same
          simp only [other, atOnce, false_and, if_false, List.mem_cons, true_or, true_and, if_true]
          exact put_same _ _ _
        · simp only [List.mem_cons, same, false_or]
          rw [show (put (p.station i).lc.nextDue e _)[c] = _ from put_other _ e c _ (Ne.symm same)]
          rfl

end Load

/-- The line at a load, before its entries fall due (R125 steps 1 to 4). -/
def Line.loads (l : Line) (table : Vector Entry 16) (now : Time) : Line :=
  { l with due := [], schedule := some table, stuckFlag := false, reception := Vector.replicate 16 .zero
           nextDue := mapEach (fun e => now + BitVec.ofNat 32 e.offset) table, pendingReload := none }

/-- The line after a load (R119, R125). -/
def Line.loaded (l : Line) (table : Vector Entry 16) (now : Time) : Line :=
  { l with
    due := ((List.finRange 16).filter fun e => table[e].atOnce).map fun e => (e, now)
    schedule := some table, stuckFlag := false, reception := Vector.replicate 16 .zero
    nextDue := mapEach (fun e : Entry => now + BitVec.ofNat 32 (if e.atOnce = true then e.period else e.offset)) table
    pendingReload := none, state := .syncing, idleCount := 0 }

/-- The line at the end of a load: SYNCING, its idle count at 0 (R125 step 5). -/
def Line.syncs (l : Line) : Line := { l with state := .syncing, idleCount := 0 }

theorem loads_next (l : Line) (table : Vector Entry 16) (now : Time) (e : Fin 16) :
    (l.loads table now).nextDue[e] = now + BitVec.ofNat 32 table[e].offset := mapEach_get _ table e.val e.isLt

/-- The entries of a line just loaded fall due. -/
theorem fallDueAll_loads {q : Part} {i : StationId} {table : Vector Entry 16} {l : Line}
    (line : (q.station i).lc = l.loads table q.rackTime)
    (near : ∀ e : Fin 16, table[e].enabled = true → table[e].offset < 2 ^ 31) :
    (q.fallDueAll i).mem = q.mem ∧
    ((q.fallDueAll i).station i).lc.syncs = l.loaded table q.rackTime := by
  have loading : q.Loading i table entryIds :=
    ⟨by rw [line]; rfl, fun e _ => by rw [line]; exact loads_next l table _ e, fun d hd => by rw [line] at hd; cases hd⟩
  obtain ⟨mem, next, fallen, each⟩ := loading.fold (List.pairwise_lt_finRange 16) near
  have fills : next = (l.loaded table q.rackTime).nextDue := by
    refine Vector.ext fun k hk => (each ⟨k, hk⟩).trans ?_
    rw [line, loads_next]
    unfold Line.loaded
    rw [mapEach_get _ table k hk]
    simp only [entryIds, List.mem_finRange, true_and, Fin.getElem_fin]
    split <;> rfl
  refine ⟨mem, ?_⟩
  rw [Part.fallDueAll, fallen, fills, line]
  rfl

theorem loadSchedule_eq (p : Part) (i : StationId) (table : Vector Entry 16)
    (near : ∀ e : Fin 16, table[e].enabled = true → table[e].offset < 2 ^ 31) :
    (p.loadSchedule i table).mem = p.mem.zero (Config.receptionEntry i 0) 512 ∧
    ((p.loadSchedule i table).station i).lc = (p.station i).lc.loaded table p.rackTime := by
  obtain ⟨q, hq⟩ : ∃ q : Part, q = { p.setLc i fun l => l.loads table p.rackTime with
    mem := p.mem.zero (Config.receptionEntry i 0) 512 } := ⟨_, rfl⟩
  have load : p.loadSchedule i table = (q.fallDueAll i).setLc i Line.syncs := by
    rw [hq]
    rfl
  have now : q.rackTime = p.rackTime := by rw [hq, setLc_rackTime]
  have loads : (q.station i).lc = (p.station i).lc.loads table q.rackTime := by
    rw [now, hq, memory_station, setLc_station_same]
  obtain ⟨mem, line⟩ := fallDueAll_loads loads near
  rw [load, setLc_mem, setLc_station_same, mem, ← now]
  exact ⟨by rw [hq], line⟩

end Sys2Proof.Machine
end

section
/-! What a SEND does at its take (R124 to R127), and the events of a due entry and of a wire that comes free (R112, R115,
R119, R120). -/

namespace Sys2Proof.Machine

/-! ### The checks of a SEND (R124) -/

theorem sendParams_iff (q : BitVec 256) (a : SendParams) : sendParams q = some a ↔
    field q 4 1 = (match a with | .start => 0 | .stop => 1 | .once _ => 2) ∧
      ∀ e, a = .once e → field q 5 1 = e.val := by
  have named : ∀ e : Fin 16, index 16 (field q 5 1) = some e ↔ field q 5 1 = e.val := fun e => by
    have inside := e.isLt
    unfold index
    split
    · simp [Fin.ext_iff]
    · simp
      omega
  unfold sendParams
  dsimp only
  split
  · rename_i zero
    cases a <;> simp [zero]
  · split
    · rename_i one
      cases a <;> simp [one]
    · split
      · rename_i two
        cases a <;> simp [two, named]
      · cases a <;> simp_all

section Send
variable {p : Part} {i : StationId} {t : Step}

theorem startStep_send (kind : Kind.ofCode t.kind = some .send) : p.startStep i t = p.startSend i t := by
  unfold Part.startStep
  rw [kind]

theorem startSend_bad (h : sendParams t.params = none) : p.startSend i t = (p, some (.error .badParam)) := by
  unfold Part.startSend
  rw [h]

theorem startSend_dead {a : SendParams} (h : sendParams t.params = some a) (dead : (p.station i).ps.live = false) :
    p.startSend i t = (p, some (.error .noSupply)) := by
  unfold Part.startSend
  rw [h]
  simp [dead]

variable (live : (p.station i).ps.live = true)
include live

theorem startSend_start (h : sendParams t.params = some .start) : p.startSend i t = p.sendStart i := by
  unfold Part.startSend
  rw [h]
  simp [live]

theorem startSend_stop (h : sendParams t.params = some .stop) : p.startSend i t = p.sendStop i := by
  unfold Part.startSend
  rw [h]
  simp [live]

theorem startSend_once {e : Fin 16} (h : sendParams t.params = some (.once e)) : p.startSend i t = p.sendOnce i e := by
  unfold Part.startSend
  rw [h]
  simp [live]

end Send

/-! ### SEND START (R118, R125) -/

section Start
variable {p : Part} {i : StationId} {table : Vector Entry 16}

theorem checked_invalid_iff (e : Entry) : (e.checked && !e.valid) = true ↔ e.enable ≠ 0 ∧ e.valid = false := by
  simp [Entry.checked]

theorem firstInvalid_some {e : Fin 16} (bad : table[e].enable ≠ 0 ∧ table[e].valid = false)
    (first : ∀ d, d < e → ¬(table[d].enable ≠ 0 ∧ table[d].valid = false)) : firstInvalid table = some e := by
  unfold firstInvalid entryIds
  refine List.find?_eq_some_iff_getElem.mpr ⟨(checked_invalid_iff _).mpr bad, e.val, by simp, by simp, fun k hk => ?_⟩
  rw [Bool.not_eq_true', ← Bool.not_eq_true, checked_invalid_iff]
  exact first _ (by simpa [Fin.lt_def] using hk)

theorem firstInvalid_none (good : ∀ e : Fin 16, ¬(table[e].enable ≠ 0 ∧ table[e].valid = false)) :
    firstInvalid table = none := by
  unfold firstInvalid
  refine List.find?_eq_none.mpr fun e _ => ?_
  rw [checked_invalid_iff]
  exact good e

/-- The period an entry is loaded with, and the entry loaded (R118). -/
theorem loaded_eq : Entry.loaded = fun e : Entry =>
    let held := if e.period < 5 then 5 else if 10000 < e.period then 10000 else e.period
    if e.enable = 1 then { e with period := held, offset := e.offset % held } else e := by
  funext e
  simp only [Entry.loaded, Entry.enabled, decide_eq_true_eq]
  rfl

theorem sendStart_invalid {e : Fin 16} (h : firstInvalid (p.readTable i) = some e) :
    p.sendStart i = (p, some { Result.error .badParam with aux := e.val }) := by
  unfold Part.sendStart
  dsimp only
  rw [h]

theorem startResult_eq (enabled clamped : Nat) :
    startResult enabled clamped = .done (if clamped = 0 then 0 else resLimited) enabled clamped := by
  simp [startResult, flagIf]

variable (h : firstInvalid (p.readTable i) = none)
include h

theorem sendStart_free (free : (p.station i).lc.frame = none) :
    p.sendStart i = (p.loadSchedule i (mapEach Entry.loaded (p.readTable i)),
      some (startResult ((p.readTable i).toList.countP Entry.enabled)
        ((p.readTable i).toList.countP Entry.clamps))) := by
  unfold Part.sendStart
  dsimp only
  rw [h]
  simp [Line.busy, free]

theorem sendStart_busy (busy : (p.station i).lc.frame ≠ none) :
    p.sendStart i = ((p.setLc i fun l =>
        { l with pendingReload := some (mapEach Entry.loaded (p.readTable i)), pendingStop := false }).setWork i
      (.sendStart ((p.readTable i).toList.countP Entry.enabled) ((p.readTable i).toList.countP Entry.clamps)), none) := by
  unfold Part.sendStart
  dsimp only
  rw [h]
  simp [Line.busy, Option.isSome_iff_ne_none, busy]

end Start

/-! ### SEND STOP (R126) -/

section Stop
variable {p : Part} {i : StationId}

theorem sendStop_quiet (quiet : (p.station i).lc.state = .quiet) : p.sendStop i = (p, some (.done 0 0 0)) := by
  simp [Part.sendStop, quiet]

theorem sendStop_free (loud : (p.station i).lc.state ≠ .quiet) (free : (p.station i).lc.frame = none) :
    p.sendStop i = (p.setLc i fun l => { l with due := [], schedule := none, state := .quiet, gap := false },
      some (.done 0 (p.station i).lc.due.length 0)) := by
  simp [Part.sendStop, loud, Line.busy, free, Line.clear]

theorem sendStop_busy (loud : (p.station i).lc.state ≠ .quiet) (busy : (p.station i).lc.frame ≠ none) :
    p.sendStop i = ((p.setLc i fun l =>
        { l with due := [], schedule := none, pendingStop := true, pendingReload := none }).setWork i
      (.sendStop (p.station i).lc.due.length), none) := by
  simp [Part.sendStop, loud, Line.busy, Option.isSome_iff_ne_none, busy, Line.clear]

end Stop

/-! ### SEND ONCE (R127) -/

section Once
variable {p : Part} {i : StationId} {e : Fin 16} {table : Vector Entry 16}

theorem sendOnce_unloaded (h : (p.station i).lc.schedule = none) :
    p.sendOnce i e = (p, some (.error .lineError)) := by
  unfold Part.sendOnce
  dsimp only
  rw [h]

variable (h : (p.station i).lc.schedule = some table)
include h

theorem sendOnce_invalid (bad : table[e].valid = false) : p.sendOnce i e = (p, some (.error .badParam)) := by
  unfold Part.sendOnce
  dsimp only
  rw [h]
  simp only [bad, Bool.false_eq_true, if_false]

theorem sendOnce_valid (good : table[e].valid = true) :
    p.sendOnce i e = (((p.setWork i (.sendOnce e false)).joinDue i e p.rackTime).startFrame i, none) := by
  unfold Part.sendOnce
  dsimp only
  rw [h]
  simp only [good, if_true]

omit h in
theorem setWork_station (p : Part) (i : StationId) (k : Work) :
    (p.setWork i k).station i = { p.station i with walker := (p.station i).walker.setWork k } :=
  setWalker_station_same p i _

theorem sendOnce_waits (good : table[e].valid = true)
    (taken : (p.station i).lc.state ≠ .running ∨ (p.station i).lc.frame ≠ none ∨ (p.station i).lc.gap = true) :
    p.sendOnce i e =
      (if (p.station i).lc.isDue e then (p.setWork i (.sendOnce e false)).overrun i e
       else (p.setWork i (.sendOnce e false)).setLc i fun l =>
        { l with due := insertDue p.rackTime e p.rackTime l.due }, none) := by
  have joined : (p.setWork i (.sendOnce e false)).joinDue i e p.rackTime =
      if (p.station i).lc.isDue e then (p.setWork i (.sendOnce e false)).overrun i e
      else (p.setWork i (.sendOnce e false)).setLc i fun l =>
        { l with due := insertDue p.rackTime e p.rackTime l.due } := by
    rw [Part.joinDue, setWork_station]
    rfl
  rw [sendOnce_valid h good, joined, startFrame_none]
  split
  · rw [overrun_lc, setWork_station]
    exact taken.imp_right (Or.imp_right .inl)
  · rw [setLc_station_same, setWork_station]
    exact taken.imp_right (Or.imp_right .inl)

omit h in
/-- The frame that a ONCE waits for starts (R127). -/
theorem onceStarts_setWork (w : Walker) (e : Fin 16) :
    (w.setWork (.sendOnce e false)).onceStarts e = w.setWork (.sendOnce e true) := by
  obtain ⟨state, position, current, rerunCell, step, rerun, hold, run, value, unit, start⟩ := w
  cases rerun with
  | some t => simp [Walker.onceStarts, Walker.setWork, Walker.work, Walker.active]
  | none => cases step <;> simp [Walker.onceStarts, Walker.setWork, Walker.work, Walker.active]

omit h in
theorem setWork_header (k : Work) (x : Station) : Station.header { x with walker := x.walker.setWork k } = x.header := by
  have words : (x.walker.setWork k).words = x.walker.words := by
    unfold Walker.setWork
    split <;> rfl
  simp only [Station.header, words]

omit h in
theorem onceStarts_header (e : Fin 16) (x : Station) :
    Station.header { x with walker := x.walker.onceStarts e } = x.header := by
  obtain same | ⟨k, same⟩ := onceStarts_eq x.walker e
  · rw [same]
  · rw [same, setWork_header]

theorem sendOnce_starts (good : table[e].valid = true) (running : (p.station i).lc.state = .running)
    (free : (p.station i).lc.frame = none) (noGap : (p.station i).lc.gap = false) (nothing : (p.station i).lc.due = []) :
    p.sendOnce i e =
      ((p.setLc i fun l => { l with frame := some (table[e].frame e (p.station i).st) }).setWork i
        (.sendOnce e true), none) := by
  have joined : (p.setWork i (.sendOnce e false)).joinDue i e p.rackTime =
      (p.setWork i (.sendOnce e false)).setLc i fun l => { l with due := [(e, p.rackTime)] } := by
    rw [Part.joinDue, setWork_station, if_neg (by simp [Line.isDue, nothing])]
    refine setLc_congr ?_
    rw [setWork_station]
    dsimp only
    rw [nothing]
    rfl
  have line : (((p.setWork i (.sendOnce e false)).joinDue i e p.rackTime).station i) =
      { p.station i with walker := (p.station i).walker.setWork (.sendOnce e false)
                         lc := { (p.station i).lc with due := [(e, p.rackTime)] } } := by
    rw [joined, setLc_station_same, setWork_station]
  rw [sendOnce_valid h good, startFrame_head (d := (e, p.rackTime)) (rest := []) (table := table)
    (by rw [line]; exact running) (by rw [line]; exact free) (by rw [line]; exact noGap) (by rw [line])
    (by rw [line]; exact h), line, joined]
  refine congrArg (·, none) ?_
  have list : ∀ x : Station, Station.header { x with lc := { x.lc with due := [(e, p.rackTime)] } } = x.header :=
    setLc_header (g := fun l => { l with due := [(e, p.rackTime)] }) fun _ _ => rfl
  have wire : ∀ x : Station, Station.header { x with lc :=
      { x.lc with due := [], frame := some (table[e].frame e (p.station i).st) } } = x.header :=
    setLc_header (g := fun l => { l with due := [], frame := some (table[e].frame e (p.station i).st) }) fun _ _ => rfl
  have wired : ∀ x : Station, Station.header { x with
      walker := x.walker.onceStarts e
      lc := { x.lc with due := [], frame := some (table[e].frame e (p.station i).st) } } = x.header := fun x =>
    (onceStarts_header e _).trans (wire x)
  unfold Part.setWork Part.setWalker Part.setLc
  rw [modify_then _ _ _ (onceStarts_header e), modify_then _ _ _ wired, modify_then _ _ _ fun x => (wired _).trans (list x),
    modify_then _ _ _ (setWork_header _)]
  refine modify_congr _ _ _ _ ?_
  rw [onceStarts_setWork]
  dsimp only
  rw [nothing]

end Once

/-! ### A due entry (R119, R120) -/

section Entry
variable {p : Part} {i : StationId} {e : Fin 16} {table : Vector Entry 16}
  (loaded : (p.station i).lc.schedule = some table) (enabled : table[e].enabled = true)
  (reached : p.reached (p.station i).lc.nextDue[e] = true)
include loaded enabled reached

theorem scheduleDue_eq : p.scheduleDue i e = (p.fallDue i e).startFrame i := by
  rw [Part.scheduleDue, entryDue_of loaded, enabled, reached]
  rfl

theorem scheduleDue_joins (fresh : (p.station i).lc.isDue e = false)
    (taken : (p.station i).lc.state ≠ .running ∨ (p.station i).lc.frame ≠ none ∨ (p.station i).lc.gap = true) :
    p.scheduleDue i e = p.setLc i fun l =>
      { l with due := insertDue p.rackTime e l.nextDue[e] l.due
               nextDue := put l.nextDue e (l.nextDue[e] + BitVec.ofNat 32 table[e].period) } := by
  rw [scheduleDue_eq loaded enabled reached, fallDue_fresh loaded fresh, startFrame_none]
  rw [setLc_station_same]
  exact taken.imp_right (Or.imp_right .inl)

theorem scheduleDue_overruns (due : (p.station i).lc.isDue e = true)
    (taken : (p.station i).lc.state ≠ .running ∨ (p.station i).lc.frame ≠ none ∨ (p.station i).lc.gap = true) :
    p.scheduleDue i e = (p.overrun i e).setLc i fun l =>
      { l with nextDue := put l.nextDue e (l.nextDue[e] + BitVec.ofNat 32 table[e].period) } := by
  rw [scheduleDue_eq loaded enabled reached, fallDue_again loaded due, startFrame_none]
  rw [setLc_station_same, overrun_lc]
  exact taken.imp_right (Or.imp_right .inl)

/-- With nothing due, a free wire of a RUNNING line takes the entry's frame at once. -/
theorem scheduleDue_starts (running : (p.station i).lc.state = .running) (free : (p.station i).lc.frame = none)
    (noGap : (p.station i).lc.gap = false) (nothing : (p.station i).lc.due = []) :
    p.scheduleDue i e = (p.setLc i fun l =>
      { l with nextDue := put l.nextDue e (l.nextDue[e] + BitVec.ofNat 32 table[e].period)
               frame := some (table[e].frame e (p.station i).st) }).setWalker i (·.onceStarts e) := by
  have fallen : p.fallDue i e = p.setLc i fun l =>
      { l with due := [(e, l.nextDue[e])]
               nextDue := put l.nextDue e (l.nextDue[e] + BitVec.ofNat 32 table[e].period) } := by
    rw [fallDue_fresh loaded (by simp [Line.isDue, nothing])]
    refine setLc_congr ?_
    rw [nothing]
    rfl
  rw [scheduleDue_eq loaded enabled reached, fallen, startFrame_head (d := (e, (p.station i).lc.nextDue[e]))
    (rest := []) (table := table)
    (by rw [setLc_station_same]; exact running) (by rw [setLc_station_same]; exact free)
    (by rw [setLc_station_same]; exact noGap) (by rw [setLc_station_same]) (by rw [setLc_station_same]; exact loaded)]
  rw [setLc_setLc]
  · congr 1
    refine setLc_congr ?_
    rw [setLc_station_same, nothing]
  · exact fun _ _ => rfl

end Entry

/-! ### A wire that comes free, and the entry to RUNNING (R112, R115, R120) -/

section Wire
variable {p : Part} {i : StationId}

theorem wireFree_empty (gap : (p.station i).lc.gap = true) (nothing : (p.station i).lc.due = []) :
    p.wireFree i = p.setLc i fun l => { l with gap := false } := by
  rw [Part.wireFree, if_pos gap, startFrame_none]
  rw [setLc_station_same]
  exact .inr (.inr (.inr nothing))

theorem syncComplete_empty (syncing : (p.station i).lc.state = .syncing) (nothing : (p.station i).lc.due = []) :
    p.syncComplete i = p.setLc i fun l => { l with state := .running, idleCount := 24, gap := false } := by
  rw [Part.syncComplete, if_pos syncing, startFrame_none]
  rw [setLc_station_same]
  exact .inr (.inr (.inr nothing))

variable {d : Fin 16 × Time} {rest : List (Fin 16 × Time)} {table : Vector Entry 16}
  (free : (p.station i).lc.frame = none) (due : (p.station i).lc.due = d :: rest)
  (loaded : (p.station i).lc.schedule = some table)
include free due loaded

theorem wireFree_starts (gap : (p.station i).lc.gap = true) (running : (p.station i).lc.state = .running) :
    p.wireFree i = (p.setLc i fun l =>
      { l with gap := false, due := rest, frame := some (table[d.1].frame d.1 (p.station i).st) }).setWalker i
        (·.onceStarts d.1) := by
  rw [Part.wireFree, if_pos gap, startFrame_head (d := d) (rest := rest) (table := table)
    (by rw [setLc_station_same]; exact running) (by rw [setLc_station_same]; exact free)
    (by rw [setLc_station_same]) (by rw [setLc_station_same]; exact due) (by rw [setLc_station_same]; exact loaded)]
  rw [setLc_setLc, setLc_station_same]
  exact fun _ _ => rfl

theorem syncComplete_starts (syncing : (p.station i).lc.state = .syncing) :
    p.syncComplete i = (p.setLc i fun l =>
      { l with state := .running, idleCount := 24, gap := false, due := rest
               frame := some (table[d.1].frame d.1 (p.station i).st) }).setWalker i (·.onceStarts d.1) := by
  rw [Part.syncComplete, if_pos syncing, startFrame_head (d := d) (rest := rest) (table := table)
    (by rw [setLc_station_same]) (by rw [setLc_station_same]; exact free)
    (by rw [setLc_station_same]) (by rw [setLc_station_same]; exact due) (by rw [setLc_station_same]; exact loaded)]
  rw [setLc_setLc, setLc_station_same]
  exact fun _ _ => rfl

end Wire

end Sys2Proof.Machine
end

section
/-! The operations of the part that leave every line controller: what the due list does not see (R120). -/

namespace Sys2Proof.Machine

/-! ### The lines of the part -/

/-- The line controllers in the station columns. -/
def linesOf (v : Vector Station 4) (i : StationId) : Line := v[i].lc

section Columns
variable (p : Part) (i : StationId)

/-- A change of a station column that leaves its line. -/
theorem modify_lines {f : Station → Station} (h : (f (p.station i)).lc = (p.station i).lc) :
    linesOf (p.modify i f).stations = linesOf p.stations := by
  funext j
  show ((p.modify i f).station j).lc = (p.station j).lc
  by_cases hj : i = j
  · subst hj
    rw [modify_station_same, h]
  · rw [modify_station_other _ _ _ _ hj]

@[simp] theorem setWalker_lines (f : Walker → Walker) :
    linesOf (p.setWalker i f).stations = linesOf p.stations := modify_lines p i rfl
@[simp] theorem setFx_lines (f : Fixture → Fixture) :
    linesOf (p.setFx i f).stations = linesOf p.stations := modify_lines p i rfl
@[simp] theorem setPs_lines (f : Supply → Supply) :
    linesOf (p.setPs i f).stations = linesOf p.stations := modify_lines p i rfl
@[simp] theorem setSt_lines (f : Stimulus → Stimulus) :
    linesOf (p.setSt i f).stations = linesOf p.stations := modify_lines p i rfl
@[simp] theorem setAq_lines (f : Monitors → Monitors) :
    linesOf (p.setAq i f).stations = linesOf p.stations := modify_lines p i rfl
@[simp] theorem setWork_lines (k : Work) :
    linesOf (p.setWork i k).stations = linesOf p.stations := modify_lines p i rfl
@[simp] theorem setRun_lines (f : RunRecord → RunRecord) :
    linesOf (p.setRun i f).stations = linesOf p.stations := modify_lines p i rfl
@[simp] theorem setStationState_lines (st : StationState) :
    linesOf (p.setStationState i st).stations = linesOf p.stations := modify_lines p i rfl

/-- An operation that leaves the lines, carried out once for each thing of a list. -/
theorem foldl_lines {α : Type} {f : Part → α → Part}
    (h : ∀ q a, linesOf (f q a).stations = linesOf q.stations) (l : List α) :
    linesOf (l.foldl f p).stations = linesOf p.stations := by
  induction l generalizing p with
  | nil => rfl
  | cons a l ih => rw [List.foldl_cons, ih, h]

end Columns

/-! ### Operations that leave the lines -/

section Units
variable (p : Part) (i : StationId)

@[simp] theorem writeInputs_lines : linesOf (p.writeInputs i).stations = linesOf p.stations := by
  unfold Part.writeInputs
  rw [setAq_lines]
  refine foldl_lines p (fun q k => ?_) _
  split <;> rfl

@[simp] theorem updateLamp_lines (column : Fin 8) (reading : Byte) :
    linesOf (p.updateLamp i column reading).stations = linesOf p.stations := by
  have written : ∀ (q : Part) k c, (q.writeLamp i k c).stations = q.stations := fun _ _ _ => rfl
  unfold Part.updateLamp
  dsimp only
  repeat' split
  all_goals simp [written]

@[simp] theorem startPin_lines (c : Calibration) (pin : Nat) :
    linesOf (p.startPin i c pin).stations = linesOf p.stations := by
  simp [Part.startPin]

end Units

section Attempts
variable (p : Part) (i : StationId)

@[simp] theorem settleLoop_lines (w : MeasureWork) (traced : Bool) (a : Attempt) :
    linesOf (p.settleLoop i w traced a).1.stations = linesOf p.stations := by
  have appended : ∀ v, linesOf (p.traceAppend i v).stations = linesOf p.stations := fun v => by
    unfold Part.traceAppend
    dsimp only
    split <;> simp
  cases traced <;> simp [Part.settleLoop, appended]

@[simp] theorem startAttempt_lines (w : MeasureWork) (traced : Bool) :
    linesOf (p.startAttempt i w traced).1.stations = linesOf p.stations := by
  have begun : ∀ w, linesOf (p.beginGathering i w).stations = linesOf p.stations := fun w => by
    unfold Part.beginGathering
    split <;> simp
  unfold Part.startAttempt
  dsimp only
  split <;> simp [begun]

@[simp] theorem arrive_lines (w : MeasureWork) (traced : Bool) (a : Attempt) :
    linesOf (p.arrive i w traced a).1.stations = linesOf p.stations := by
  have settled := settleLoop_lines p i w traced a
  unfold Part.arrive
  split <;> rename_i e <;> rw [e] at settled
  · exact settled
  · split
    · split
      · rw [startAttempt_lines, settled]
      · exact settled
    · exact settled

end Attempts

section Walker
variable (p : Part) (i : StationId)

@[simp] theorem enterStopped_lines (r : Reason) :
    linesOf (p.enterStopped i r).stations = linesOf p.stations := by
  simp [Part.enterStopped]

@[simp] theorem becomeIdle_lines : linesOf (p.becomeIdle i).stations = linesOf p.stations := by
  simp [Part.becomeIdle]

@[simp] theorem takeStep_lines : linesOf (p.takeStep i).1.stations = linesOf p.stations := by
  simp [Part.takeStep]

@[simp] theorem beginWait_lines (t : Step) : linesOf (p.beginWait i t).stations = linesOf p.stations := by
  simp [Part.beginWait]

@[simp] theorem endWait_lines (t : Step) : linesOf (p.endWait i t).stations = linesOf p.stations := by
  simp [Part.endWait]

@[simp] theorem closeRun_lines : linesOf (p.closeRun i).stations = linesOf p.stations := by
  unfold Part.closeRun
  split <;> simp

@[simp] theorem completeMain_lines (t : Step) (r : Result) :
    linesOf (p.completeMain i t r).stations = linesOf p.stations := by
  simp [Part.completeMain]

@[simp] theorem rerunEnd_lines (t : Step) (r : Result) :
    linesOf (p.rerunEnd i t r).stations = linesOf p.stations := by
  simp [Part.rerunEnd, (changePrompt_only _ _ _).stations]

end Walker

section Starts
variable (p : Part) (i : StationId) (t : Step)

@[simp] theorem startBegin_lines : linesOf (p.startBegin i t).1.stations = linesOf p.stations := by
  unfold Part.startBegin
  dsimp only
  repeat' split
  all_goals simp [Part.passing]

@[simp] theorem beginRelease_lines : linesOf (p.beginRelease i).1.stations = linesOf p.stations := by
  unfold Part.beginRelease
  split <;> simp

@[simp] theorem startEnd_lines : linesOf (p.startEnd i t).1.stations = linesOf p.stations := by
  have released : ∀ (q q' : Part) b, q.beginRelease i = (q', b) → linesOf q'.stations = linesOf q.stations :=
    fun q q' b e => by rw [← beginRelease_lines q i, e]
  unfold Part.startEnd
  dsimp only
  split
  · split
    · split
      · split <;> rename_i e <;> simp [released _ _ _ e]
      · simp
    · simp
  · rfl

@[simp] theorem startRelease_lines : linesOf (p.startRelease i t).1.stations = linesOf p.stations := by
  have released := beginRelease_lines p i
  unfold Part.startRelease
  split
  · split <;> rename_i e <;> rw [e] at released <;> simpa using released
  · rfl

@[simp] theorem startWait_lines : linesOf (p.startWait i t).1.stations = linesOf p.stations := by
  unfold Part.startWait
  split <;> simp

@[simp] theorem startClamp_lines : linesOf (p.startClamp i t).1.stations = linesOf p.stations := by
  unfold Part.startClamp
  dsimp only
  repeat' split
  all_goals simp

@[simp] theorem startContact_lines : linesOf (p.startContact i).1.stations = linesOf p.stations := by
  unfold Part.startContact
  dsimp only
  repeat' split
  all_goals simp [Part.clearContacts]

@[simp] theorem admitMeasure_lines (q : MeasureParams) :
    linesOf (p.admitMeasure i t q).1.stations = linesOf p.stations := by
  unfold Part.admitMeasure
  dsimp only
  repeat' split
  all_goals simp

@[simp] theorem startMeasure_lines : linesOf (p.startMeasure i t).1.stations = linesOf p.stations := by
  unfold Part.startMeasure
  split <;> simp

@[simp] theorem startListen_lines : linesOf (p.startListen i t).1.stations = linesOf p.stations := by
  unfold Part.startListen
  dsimp only
  repeat' split
  all_goals simp

@[simp] theorem startPrompt_lines : linesOf (p.startPrompt i t).1.stations = linesOf p.stations := by
  unfold Part.startPrompt
  split <;> simp [(placeEntry_only _ _).stations]

@[simp] theorem workSet_lines (atOnce : Bool) (w : SetWork) :
    linesOf (p.workSet i t atOnce w).1.stations = linesOf p.stations := by
  unfold Part.workSet
  split <;> simp

@[simp] theorem startSet_lines : linesOf (p.startSet i t).1.stations = linesOf p.stations := by
  unfold Part.startSet
  dsimp only
  split
  · rfl
  · split
    · rfl
    · split <;> simp

end Starts

section Abandonment
variable (p : Part) (i : StationId) (cause : AbandonCause)

@[simp] theorem dropWork_lines (k : Work) : linesOf (p.dropWork i k cause).1.stations = linesOf p.stations := by
  unfold Part.dropWork
  cases k with dsimp only
  | prompt => rw [(withdrawPrompt_only p i _).stations]
  | _ => simp [Part.dropAcquisition]

@[simp] theorem abandonRerun_lines : linesOf (p.abandonRerun i cause).stations = linesOf p.stations := by
  unfold Part.abandonRerun
  split <;> simp

@[simp] theorem abandonStep_lines : linesOf (p.abandonStep i cause).stations = linesOf p.stations := by
  unfold Part.abandonStep
  dsimp only
  split <;> simp

@[simp] theorem faultReport_lines (r : FaultReason) : linesOf (p.faultReport i r).stations = linesOf p.stations := by
  unfold Part.faultReport
  split
  · rfl
  · rfl
  all_goals
    rw [(placeEntry_only _ _).stations]
    simp

theorem haltNotice_lines : linesOf (p.haltNotice i).stations = linesOf p.stations := modify_lines p i rfl

@[simp] theorem halt_lines : linesOf (p.halt i).stations = linesOf p.stations := by
  unfold Part.halt
  split
  · rfl
  · rfl
  · rfl
  all_goals
    rw [haltNotice_lines]
    simp

end Abandonment

end Sys2Proof.Machine
end

section
/-! What the line operations make of the law of the due list (R120, R126): a load, a frame that starts and one that ends
keep it; and what a lost supply or a line found stuck leaves is cleared. -/

namespace Sys2Proof.Machine

/-! ### The law of one line -/

namespace Line.DueLaw

variable {l : Line}

/-- A still line has nothing due. -/
theorem of_still (h : l.still = true) : l.DueLaw := by
  simp only [Line.still, Bool.and_eq_true, decide_eq_true_eq, Option.isNone_iff_eq_none, List.isEmpty_iff,
    Bool.not_eq_true'] at h
  obtain ⟨⟨⟨⟨⟨-, schedule⟩, due⟩, frame⟩, -⟩, stop⟩ := h
  exact ⟨by rw [due]; exact List.nodup_nil, fun _ => ⟨due, schedule⟩, by simp [frame], by simp [stop]⟩

theorem pendingStop_of_free (h : l.DueLaw) (free : l.frame = none) : l.pendingStop = false := by
  cases pending : l.pendingStop with
  | false => rfl
  | true => simpa [free] using (h.stop pending).1

/-- A loaded line is SYNCING or RUNNING. -/
theorem awake (h : l.DueLaw) (loaded : l.schedule ≠ none) : ¬(l.state = .dormant ∨ l.state = .quiet) :=
  fun asleep => loaded (h.quiet asleep).2

/-- A frame on the wire changes. -/
theorem setFrame (h : l.DueLaw) (busy : l.frame.isSome = true) (f : Frame) :
    Line.DueLaw { l with frame := some f } :=
  ⟨h.once, h.quiet, fun _ => h.wire busy, fun stopping => ⟨rfl, (h.stop stopping).2⟩⟩

theorem supplyArrives (h : l.DueLaw) : l.supplyArrives.DueLaw := by
  unfold Line.supplyArrives
  split
  · rename_i dormant
    exact ⟨h.once, fun _ => h.quiet (.inl dormant), fun busy => by simp [h.wire busy] at dormant, h.stop⟩
  all_goals exact h

/-- A line found stuck is cleared, or was already. -/
theorem stick (h : l.state = .dormant ∨ l.state = .quiet → l.DueLaw) : l.stick.DueLaw := by
  unfold Line.stick
  dsimp only
  split
  · exact ⟨List.nodup_nil, fun _ => ⟨rfl, rfl⟩, nofun, nofun⟩
  · exact ⟨List.nodup_nil, fun _ => ⟨rfl, rfl⟩, nofun, nofun⟩
  · rename_i dormant
    obtain ⟨once, quiet, wire, stop⟩ := h (.inl dormant)
    exact ⟨once, quiet, wire, stop⟩
  · rename_i asleep
    obtain ⟨once, quiet, wire, stop⟩ := h (.inr asleep)
    exact ⟨once, quiet, wire, stop⟩

end Line.DueLaw

/-! ### What joins a due list -/

/-- The line's due list has at most gained an entry it did not hold, and its times and counts have
moved with it. -/
structure Line.Joins (l l' : Line) : Prop where
  same : l' = { l with due := l'.due, nextDue := l'.nextDue, reception := l'.reception }
  once : (l.due.map Prod.fst).Nodup → (l'.due.map Prod.fst).Nodup

namespace Line.Joins

variable {l l' l'' : Line}

theorem refl (l : Line) : l.Joins l := ⟨rfl, id⟩

theorem trans (h : l.Joins l') (h' : l'.Joins l'') : l.Joins l'' :=
  ⟨by rw [h'.same, h.same], fun once => h'.once (h.once once)⟩

/-- A loaded line keeps its law. -/
theorem dueLaw (h : l.Joins l') (law : l.DueLaw) (loaded : l.schedule ≠ none) : l'.DueLaw := by
  rw [h.same]
  exact ⟨h.once law.once, fun asleep => absurd asleep (law.awake loaded), law.wire,
    fun stopping => absurd (law.stop stopping).2.2 loaded⟩

theorem insertDue (now : Time) (e : Fin 16) (key : Time) (fresh : l.isDue e = false) :
    l.Joins { l with due := insertDue now e key l.due } where
  same := rfl
  once once := by
    refine ((insertDue_perm now e key l.due).map Prod.fst).nodup_iff.mpr (List.nodup_cons.mpr ⟨fun held => ?_, once⟩)
    obtain ⟨d, mem, entry⟩ := List.mem_map.mp held
    have apart := List.any_eq_false.mp fresh d mem
    simp [entry] at apart

/-- What falls due at a load leaves a lawful line. -/
theorem syncs {t : Vector Entry 16} {now : Time} (h : (l.loads t now).Joins l') (free : l.frame = none)
    (noStop : l.pendingStop = false) : l'.syncs.DueLaw := by
  have frame : l'.frame = none := by
    rw [h.same]
    exact free
  have stop : l'.pendingStop = false := by
    rw [h.same]
    exact noStop
  exact ⟨h.once List.nodup_nil, nofun, fun busy => by simp [Line.syncs, frame] at busy,
    fun stopping => by simp [Line.syncs, stop] at stopping⟩

end Line.Joins

section Joins
variable (p : Part) (i : StationId)

theorem joinDue_joins (e : Fin 16) (key : Time) : (p.station i).lc.Joins ((p.joinDue i e key).station i).lc := by
  unfold Part.joinDue
  split
  · rw [overrun_lc]
    exact ⟨rfl, id⟩
  · rename_i fresh
    rw [setLc_station_same]
    exact .insertDue _ e key (by simpa using fresh)

theorem fallDue_joins (e : Fin 16) : (p.station i).lc.Joins ((p.fallDue i e).station i).lc := by
  unfold Part.fallDue
  dsimp only
  split
  · exact .refl _
  · rw [setLc_station_same]
    exact (joinDue_joins p i e _).trans ⟨rfl, id⟩

theorem fallDueAll_joins : (p.station i).lc.Joins ((p.fallDueAll i).station i).lc := by
  have fold : ∀ (l : List (Fin 16)) (q : Part), (q.station i).lc.Joins
      ((l.foldl (fun q e => if q.entryDue i e then q.fallDue i e else q) q).station i).lc := by
    intro l
    induction l with
    | nil => exact fun q => .refl _
    | cons e l ih =>
      intro q
      refine Line.Joins.trans ?_ (ih _)
      dsimp only
      split
      · exact fallDue_joins q i e
      · exact .refl _
  exact fold entryIds p

end Joins

/-! ### Operations of one line that keep its law -/

section Keeps
variable (p : Part) (i : StationId)

/-- A load with the wire free leaves a lawful line, whatever it loads over (R125). -/
theorem loadSchedule_dueLaw (t : Vector Entry 16) (free : (p.station i).lc.frame = none)
    (noStop : (p.station i).lc.pendingStop = false) : ((p.loadSchedule i t).station i).lc.DueLaw := by
  obtain ⟨q, hq⟩ : ∃ q : Part, q = { p.setLc i fun l => l.loads t p.rackTime with
    mem := p.mem.zero (Config.receptionEntry i 0) 512 } := ⟨_, rfl⟩
  have load : p.loadSchedule i t = (q.fallDueAll i).setLc i Line.syncs := by
    rw [hq]
    rfl
  have line : (q.station i).lc = (p.station i).lc.loads t p.rackTime := by
    rw [hq, memory_station, setLc_station_same]
  have joins := fallDueAll_joins q i
  rw [line] at joins
  rw [load, setLc_station_same]
  exact joins.syncs free noStop

theorem startFrame_dueLaw (law : (p.station i).lc.DueLaw) : ((p.startFrame i).station i).lc.DueLaw := by
  unfold Part.startFrame
  dsimp only
  split
  · rename_i running free _ due _
    rw [setWalker_station_same, setLc_station_same]
    have once := law.once
    rw [due] at once
    exact ⟨(List.nodup_cons.mp once).2, fun asleep => by simp [running] at asleep, fun _ => running,
      fun stopping => by simp [law.pendingStop_of_free free] at stopping⟩
  · exact law

/-- A frame's end, and what waits for it (R112, R125, R126). -/
theorem endFrame_dueLaw (f : Frame) (r : FrameResult) (law : (p.station i).lc.DueLaw) :
    (((p.endFrameRecord i f r).afterFrame i).station i).lc.DueLaw := by
  have recorded := endFrameRecord_station p i f r
  cases stopping : (p.station i).lc.pendingStop with
  | true =>
    obtain ⟨-, due, schedule⟩ := law.stop stopping
    rw [afterFrame_stops f r stopping, setLc_station_same, recorded]
    exact ⟨law.once, fun _ => ⟨due, schedule⟩, nofun, nofun⟩
  | false =>
    cases reload : (p.station i).lc.pendingReload with
    | none =>
      rw [afterFrame_plain f r stopping reload, recorded]
      exact ⟨law.once, law.quiet, nofun, fun h => Bool.noConfusion (stopping.symm.trans h)⟩
    | some table =>
      rw [afterFrame_loads f r stopping reload]
      exact loadSchedule_dueLaw _ i table (by rw [recorded]) (by rw [recorded]; exact stopping)

/-- The take of a SEND (R124 to R127). -/
theorem startSend_dueLaw (t : Step) (law : (p.station i).lc.DueLaw) :
    ((p.startSend i t).1.station i).lc.DueLaw := by
  have starts : ((p.sendStart i).1.station i).lc.DueLaw := by
    unfold Part.sendStart
    dsimp only
    split
    · exact law
    · split
      · rw [setWork_station, setLc_station_same]
        exact ⟨law.once, law.quiet, law.wire, nofun⟩
      · rename_i free
        have free : (p.station i).lc.frame = none := by simpa [Line.busy] using free
        exact loadSchedule_dueLaw p i _ free (law.pendingStop_of_free free)
  have stops : ((p.sendStop i).1.station i).lc.DueLaw := by
    unfold Part.sendStop
    dsimp only
    split
    · exact law
    · split
      · rename_i busy
        rw [setWork_station, setLc_station_same]
        exact ⟨List.nodup_nil, fun _ => ⟨rfl, rfl⟩, law.wire, fun _ => ⟨busy, rfl, rfl⟩⟩
      · rename_i free
        rw [setLc_station_same]
        exact ⟨List.nodup_nil, fun _ => ⟨rfl, rfl⟩, fun busy => absurd busy free,
          fun stopping => absurd (law.stop stopping).1 free⟩
  have once : ∀ e, ((p.sendOnce i e).1.station i).lc.DueLaw := fun e => by
    unfold Part.sendOnce
    dsimp only
    split
    · exact law
    · rename_i loaded
      split
      · refine startFrame_dueLaw _ i ((joinDue_joins _ i e _).dueLaw ?_ ?_)
        all_goals rw [setWork_station]
        · exact law
        · exact fun h => nomatch loaded.symm.trans h
      · exact law
  unfold Part.startSend
  split
  · exact law
  · split
    · split
      · exact starts
      · exact stops
      · exact once _
    · exact law

end Keeps

end Sys2Proof.Machine
end

section
/-! The law of the due lists (R120) over the walker: a cut supply and a SEND move a line, and what leads to them keeps its
law. -/

namespace Sys2Proof.Machine

/-! ### The law of every line -/

/-- Every line that was lawful still is. -/
def Part.DueKept (p q : Part) : Prop := ∀ i, (linesOf p.stations i).DueLaw → (linesOf q.stations i).DueLaw

namespace Part.DueKept

variable {p q r : Part}

theorem refl (p : Part) : p.DueKept p := fun _ => id

theorem trans (h : p.DueKept q) (h' : q.DueKept r) : p.DueKept r := fun i law => h' i (h i law)

/-- An operation that leaves the lines, after others. -/
theorem leaves (h : p.DueKept q) (e : linesOf r.stations = linesOf q.stations) : p.DueKept r := fun i => by
  rw [e]
  exact h i

theorem of_lines (e : linesOf q.stations = linesOf p.stations) : p.DueKept q := (refl p).leaves e

/-- What follows an operation that leaves the lines. -/
theorem after (h : q.DueKept r) (e : linesOf q.stations = linesOf p.stations) : p.DueKept r :=
  (of_lines e).trans h

theorem panel (h : p.DueKept q) (e : PanelOnly q r) : p.DueKept r := h.leaves (by rw [e.stations])

/-- An operation of one station that keeps the law of its line. -/
theorem line {i : StationId} (h : p.DueKept q) (only : Part.Local i q r)
    (hl : (q.station i).lc.DueLaw → (r.station i).lc.DueLaw) : p.DueKept r := h.trans fun j law => by
  by_cases hj : j = i
  · subst hj
    exact hl law
  · show (r.station j).lc.DueLaw
    rw [only.others j hj]
    exact law

theorem setLc (h : p.DueKept q) (i : StationId) {f : Line → Line}
    (hl : (q.station i).lc.DueLaw → (f (q.station i).lc).DueLaw) : p.DueKept (q.setLc i f) :=
  h.line ((Part.Local.refl i q).setLc f) (by rwa [setLc_station_same])

end Part.DueKept

/-- An event carried to the stations in their order. -/
theorem eachStation_due {f : StationId → Part → Part} (p : Part) (hf : ∀ i (q : Part), q.DueKept (f i q)) :
    p.DueKept (p.eachStation f) := by
  have fold : ∀ (l : List StationId) (q : Part), q.DueKept (l.foldl (fun q i => f i q) q) := by
    intro l
    induction l with
    | nil => exact fun q => .refl q
    | cons i l ih => exact fun q => (hf i q).trans (ih _)
  exact fold stationIds p

/-! ### The supply, and the start of a step -/

section Starts
variable (p : Part) (i : StationId)

/-- The propagation of a cut stills the line (R117). -/
theorem supplyLeave_due (dest : SupplyState) : p.DueKept (p.supplyLeave i dest) :=
  (Part.DueKept.refl p).line ((Part.Local.refl i p).modify _) fun _ => by
    rw [Part.supplyLeave, modify_station_same]
    exact .of_still rfl

theorem supplyOff_due : p.DueKept (p.supplyOff i) := by
  unfold Part.supplyOff
  split
  · exact .refl p
  · exact supplyLeave_due p i _

theorem startPower_due (t : Step) : p.DueKept (p.startPower i t).1 := by
  have arrives : ∀ u, p.DueKept ((p.setPs i fun _ => u).setLc i Line.supplyArrives) := fun u =>
    (Part.DueKept.of_lines (setPs_lines p i _)).setLc i .supplyArrives
  unfold Part.startPower
  dsimp only
  split
  · exact .refl p
  · exact supplyOff_due p i
  · split
    · exact .refl p
    · split
      · exact .refl p
      · split
        · exact .refl p
        · split
          · exact arrives _
          · exact (arrives _).leaves (setWork_lines _ i _)

theorem startSend_due (t : Step) : p.DueKept (p.startSend i t).1 :=
  (Part.DueKept.refl p).line (startSend_local p i t) (startSend_dueLaw p i t)

theorem startStep_due (t : Step) : p.DueKept (p.startStep i t).1 := by
  unfold Part.startStep
  cases Kind.ofCode t.kind with
  | none => exact .refl p
  | some kind =>
    cases kind with dsimp only
    | power => exact startPower_due p i t
    | send => exact startSend_due p i t
    | _ => exact .of_lines (by simp)

end Starts

/-! ### The ends of a step -/

section Ends
variable (p : Part) (i : StationId)

theorem chain_due : p.DueKept (p.chain i) := by
  have examined : ∀ n (p : Part), p.DueKept (Part.examine n p i) := by
    intro n
    induction n with
    | zero => exact fun p => .of_lines (becomeIdle_lines p i)
    | succ n ih =>
      intro p
      have taken := (startStep_due _ i (p.takeStep i).2).after (takeStep_lines p i)
      unfold Part.examine
      dsimp only
      split
      · exact .of_lines (by simp)
      · split
        · split <;> rename_i e <;> rw [e] at taken
          · exact taken
          · split
            · exact taken.leaves (by simp)
            · exact (taken.leaves (by simp)).trans (ih _)
        · exact .of_lines (by simp)
  exact examined 33 p

theorem completeStep_due (r : Result) : p.DueKept (p.completeStep i r) := by
  unfold Part.completeStep
  split
  · exact .refl p
  · dsimp only
    split
    · exact .of_lines (by simp)
    · exact (chain_due _ i).after (by simp)

theorem finish_due (r : Result) : p.DueKept (p.finish i r) := by
  unfold Part.finish
  split
  · exact .of_lines (rerunEnd_lines p i _ r)
  · exact completeStep_due p i r

variable {p i} in
/-- The outcome of an operation is concluded. -/
theorem Part.DueKept.conclude {o : Part × Option Result} (h : p.DueKept o.1) :
    p.DueKept (Part.conclude i o) := by
  obtain ⟨q, _ | r⟩ := o
  · exact h
  · exact h.trans (finish_due q i r)

end Ends

/-! ### CLEAR, sweeps and re-runs -/

section Walker
variable (p : Part) (i : StationId)

theorem clear_due : p.DueKept (p.clear i) := by
  have cleared : ∀ faulted, p.DueKept (p.clearStation i faulted) := fun faulted => by
    have idle : p.DueKept (((p.supplyOff i).closeRun i).becomeIdle i) :=
      (supplyOff_due p i).leaves (by simp)
    cases faulted with
    | false => exact idle.trans (chain_due _ i)
    | true => exact (idle.panel (removeNotice_only _ i)).trans (chain_due _ i)
  unfold Part.clear
  split
  · exact .refl p
  · exact .refl p
  · exact .refl p
  · exact .refl p
  · exact cleared _
  · split
    · exact cleared _
    · exact .refl p

theorem sweep_due : p.DueKept p.sweep := by
  refine eachStation_due p fun j q => ?_
  split
  · exact chain_due q j
  · exact .refl q

theorem pressRepeat_due (e : PanelEntry) : p.DueKept (p.pressRepeat e) := by
  unfold Part.pressRepeat
  split
  · unfold Part.rerunTake
    exact .conclude ((startStep_due _ _ _).after (by simp [(changePrompt_only _ _ _).stations]))
  · exact .of_lines rfl

end Walker

end Sys2Proof.Machine
end

section
/-! Every event of the part keeps the law of the due lists, and a reset clears them: the law over every step (R120). -/

namespace Sys2Proof.Machine

/-! ### Events of the acquisition unit -/

section Acquisition
variable (p : Part) (i : StationId)

theorem datum_due (g : Gathering) (refFlag : Bool) (judge : MeasureParams → Attempt) :
    p.DueKept (p.datum i g refFlag judge) := by
  unfold Part.datum
  split
  · split
    · exact .conclude (.of_lines (arrive_lines p i _ _ _))
    · exact .refl p
  · exact .refl p

theorem requestReturn_due (q : Request) : p.DueKept (p.requestReturn i q) := by
  unfold Part.requestReturn
  split
  · unfold Part.contactReturn
    split
    · dsimp only
      split
      · exact .of_lines (by simp [Part.writeContact])
      · exact (finish_due _ i _).after (by simp [Part.writeContact])
    · exact .refl p
  · exact datum_due p i _ _ _

theorem takeCode_due (x : SampleInput) (code : Nat) : p.DueKept (p.takeCode x code) := by
  unfold Part.takeCode
  split
  · split
    · exact .refl p
    · dsimp only
      split <;> exact .of_lines (by simp)
  · split
    · exact .refl p
    · dsimp only
      split
      · exact .of_lines (by simp)
      · exact (requestReturn_due _ _ _).after rfl

theorem sampleEnds_due (microvolts : Int) : p.DueKept (p.sampleEnds microvolts) := by
  unfold Part.sampleEnds
  split
  · exact .refl p
  · split
    · exact (takeCode_due p _ _).trans (.of_lines rfl)
    · exact .of_lines rfl

theorem inputEdge_due (k : Fin 8) (tick : Tick) : p.DueKept (p.inputEdge i k tick) := by
  have closes : ∀ (q : Part) n closed, q.DueKept (q.meterCloses i n closed) := fun q n closed => by
    unfold Part.meterCloses
    split
    · exact .refl q
    · exact (datum_due _ i _ _ _).after rfl
  unfold Part.inputEdge
  split
  · exact .refl p
  · dsimp only [meterIds, List.foldl]
    exact ((Part.DueKept.of_lines (setAq_lines p i _)).trans (closes _ _ _)).trans (closes _ _ _)

theorem inputReject_due (k : Fin 8) : p.DueKept (p.inputReject i k) := by
  unfold Part.inputReject
  split <;> exact .of_lines (by simp)

theorem windowEnds_due : p.DueKept (p.windowEnds i) := by
  unfold Part.windowEnds
  split
  · split
    · exact (datum_due _ i _ _ _).after (setAq_lines p i _)
    · exact .refl p
  · exact .refl p

theorem meterExpires_due (n : Fin 2) : p.DueKept (p.meterExpires i n) := by
  unfold Part.meterExpires
  dsimp only
  split
  · exact (datum_due _ i _ _ _).after (by simp)
  · exact .refl p

theorem identityRead_due (identity : Byte) : p.DueKept (p.identityRead i identity) := by
  unfold Part.identityRead
  split
  · dsimp only
    split
    · split
      · exact .conclude (.of_lines (by simp))
      · exact .of_lines (by simp)
    · exact .of_lines (by simp)
  · exact .refl p

theorem rowUpdate_due (readings : Vector Byte 8) : p.DueKept (p.rowUpdate i readings) := by
  unfold Part.rowUpdate
  split
  · refine .of_lines ((setAq_lines _ i _).trans ?_)
    exact foldl_lines p (fun q c => updateLamp_lines q i c _) _
  · exact .refl p

end Acquisition

/-! ### Events of the fixture controllers -/

section Fixtures
variable (p : Part) (i : StationId)

theorem failClamp_due (r : Reason) (value aux : Nat) : p.DueKept (p.failClamp i r value aux) := by
  unfold Part.failClamp
  split
  · exact finish_due p i _
  · exact .refl p

theorem reverse_due (r : Reason) : p.DueKept (p.reverse i r) :=
  (failClamp_due _ i _ _ _).after (setFx_lines p i _)

theorem enterClamped_lines (record : Nat) :
    linesOf (p.enterClamped i record).stations = linesOf p.stations := by
  unfold Part.enterClamped Part.countCycle
  dsimp only
  split <;> simp

theorem closedArrival_due : p.DueKept (p.closedArrival i) := by
  have entered := Part.DueKept.of_lines (enterClamped_lines p i (p.station i).fx.record)
  unfold Part.closedArrival
  dsimp only
  split
  · split
    · exact entered
    · exact entered.trans (finish_due _ i _)
  · exact entered.leaves (faultReport_lines _ i _)

theorem openedArrival_due : p.DueKept (p.openedArrival i) := by
  have opened := Part.DueKept.of_lines (setFx_lines p i Fixture.toOpen)
  unfold Part.openedArrival
  dsimp only
  split
  · exact opened
  · split
    · exact opened.trans (finish_due _ i _)
    · exact opened.trans (finish_due _ i _)
    · exact opened

theorem guardCut_due : p.DueKept (p.guardCut i) := by
  unfold Part.guardCut
  split
  · exact (supplyLeave_due p i _).leaves (faultReport_lines _ i _)
  · exact .refl p

theorem nestLoss_due : p.DueKept (p.nestLoss i) := by
  have cut : p.DueKept (p.supplyCut i) := by
    unfold Part.supplyCut
    split
    · exact supplyLeave_due p i _
    · exact .refl p
  exact cut.leaves (faultReport_lines _ i _)

theorem armingButton_lines (held : Bool) :
    linesOf (p.armingButton i held).stations = linesOf p.stations := by
  have accepted : ∀ q : Part, linesOf (q.handsAccepted i).stations = linesOf q.stations := fun q => by
    unfold Part.handsAccepted
    dsimp only
    split
    · simp
    · split <;> simp
  unfold Part.armingButton
  dsimp only
  split <;> simp [accepted]

theorem fixtureOutcome_due (input : FixtureInput) (level : Bool) :
    p.DueKept (p.fixtureOutcome i input level) := by
  have twoHand : ∀ b : Bool, p.DueKept (if b then p.reverse i .operatorRelease else p) := fun b => by
    cases b
    · exact .refl p
    · exact reverse_due p i _
  unfold Part.fixtureOutcome
  dsimp only
  split
  · exact .of_lines (armingButton_lines p i _)
  · exact .of_lines (armingButton_lines p i _)
  · exact (failClamp_due _ i _ _ _).after (setFx_lines p i _)
  · exact closedArrival_due p i
  · exact twoHand _
  · exact twoHand _
  · exact reverse_due p i _
  · exact guardCut_due p i
  · exact nestLoss_due p i
  · exact openedArrival_due p i
  · exact openedArrival_due p i
  · exact .refl p

theorem debounceChange_due (input : FixtureInput) : p.DueKept (p.debounceChange i input) := by
  have taken := Part.DueKept.of_lines (setFx_lines p i fun f => f.takeInput input)
  unfold Part.debounceChange
  split
  · dsimp only
    split
    · exact taken
    · exact taken.trans (fixtureOutcome_due _ i _ _)
  · exact .refl p

theorem codeChange_due (code : BitVec 6) : p.DueKept (p.codeChange i code) := by
  unfold Part.codeChange
  split <;> exact .of_lines (by simp)

theorem handTimeout_due : p.DueKept (p.handTimeout i) := by
  unfold Part.handTimeout
  dsimp only
  split
  · split
    · exact (failClamp_due _ i _ _ _).after (setFx_lines p i _)
    · exact .refl p
  · exact .refl p

theorem travelExpiry_due : p.DueKept (p.travelExpiry i) := by
  have jammed : p.DueKept (p.jam i) := by
    have reported := (Part.DueKept.of_lines (setFx_lines p i Fixture.toJammed)).leaves (faultReport_lines _ i .jammed)
    unfold Part.jam
    dsimp only
    split
    · exact reported.leaves (setFx_lines _ i _)
    · exact reported
  unfold Part.travelExpiry
  dsimp only
  split
  · split
    · exact jammed
    · exact .refl p
  · split
    · exact jammed
    · exact .refl p
  · exact .refl p

end Fixtures

/-! ### Events of the line controllers -/

section Lines
variable (p : Part) (i : StationId)

theorem endFrame_due (f : Frame) (result : FrameResult) : p.DueKept (p.endFrame i f result) := by
  have ended : p.DueKept ((p.endFrameRecord i f result).afterFrame i) :=
    (Part.DueKept.refl p).line ((endFrameRecord_local p i f result).trans (afterFrame_local _ i))
      (endFrame_dueLaw p i f result)
  have reached : ∀ q : Part, q.DueKept (q.frameReaches i f result) := fun q => by
    unfold Part.frameReaches
    split
    · split
      · exact .conclude (.of_lines (setWork_lines q i _))
      · exact .refl q
    · split
      · exact finish_due q i _
      · exact .refl q
    · exact finish_due q i _
    · exact finish_due q i _
    · exact .refl q
  exact ended.trans (reached _)

theorem startFrame_due : p.DueKept (p.startFrame i) :=
  (Part.DueKept.refl p).line (startFrame_local p i) (startFrame_dueLaw p i)

theorem scheduleDue_due (e : Fin 16) : p.DueKept (p.scheduleDue i e) := by
  have fallen (due : p.entryDue i e = true) : p.DueKept (p.fallDue i e) :=
    (Part.DueKept.refl p).line (fallDue_local p i e) fun law =>
      (fallDue_joins p i e).dueLaw law fun unloaded => by simp [Part.entryDue, unloaded] at due
  unfold Part.scheduleDue
  split
  · rename_i due
    exact (fallen due).trans (startFrame_due _ i)
  · exact .refl p

theorem wireFree_due : p.DueKept (p.wireFree i) := by
  have freed : p.DueKept (p.setLc i fun l => { l with gap := false }) :=
    (Part.DueKept.refl p).setLc i fun law => ⟨law.once, law.quiet, law.wire, law.stop⟩
  unfold Part.wireFree
  split
  · exact freed.trans (startFrame_due _ i)
  · exact .refl p

theorem syncComplete_due : p.DueKept (p.syncComplete i) := by
  have running : p.DueKept (p.setLc i fun l => { l with state := .running, idleCount := 24, gap := false }) :=
    (Part.DueKept.refl p).setLc i fun law => ⟨law.once, nofun, fun _ => rfl, law.stop⟩
  unfold Part.syncComplete
  split
  · exact running.trans (startFrame_due _ i)
  · exact .refl p

variable {p i} in
/-- The frame on the wire changes. -/
theorem setFrame_due (f : Frame) (busy : (p.station i).lc.frame.isSome = true) : p.DueKept (p.setFrame i f) :=
  (Part.DueKept.refl p).setLc i fun law => law.setFrame busy f

variable {p i} in
theorem busy_of_filter {b : Frame → Bool} {f : Frame} (h : (p.station i).lc.frame.filter b = some f) :
    (p.station i).lc.frame.isSome = true :=
  Option.isSome_of_eq_some (Option.filter_eq_some_iff.mp h).1

theorem bitFault_due (noisy : Bool) : p.DueKept (p.bitFault i noisy) := by
  unfold Part.bitFault
  split
  · exact endFrame_due p i _ _
  · exact .refl p

theorem sendEnds_due (noisy : Bool) : p.DueKept (p.sendEnds i noisy) := by
  unfold Part.sendEnds
  split
  · split
    · exact .refl p
    · exact endFrame_due p i _ _
  · exact .refl p

theorem openWindow_due (noisy : Bool) : p.DueKept (p.openWindow i noisy) := by
  unfold Part.openWindow
  split
  · rename_i sent
    split
    · exact setFrame_due _ (busy_of_filter sent)
    · exact .refl p
  · exact .refl p

theorem hearCharacter_due (c : CharSamples) : p.DueKept (p.hearCharacter i c) := by
  unfold Part.hearCharacter
  split
  · rename_i heard
    split
    · exact .refl p
    · split
      · exact endFrame_due p i _ _
      · exact setFrame_due _ (busy_of_filter heard)
  · exact .refl p

theorem allowanceEnds_due : p.DueKept (p.allowanceEnds i) := by
  unfold Part.allowanceEnds
  split
  · rename_i heard
    split
    · exact setFrame_due _ (busy_of_filter heard)
    · exact .refl p
  · exact .refl p

theorem closeWindow_due (noisy : Bool) : p.DueKept (p.closeWindow i noisy) := by
  unfold Part.closeWindow
  split
  · exact endFrame_due p i _ _
  · exact .refl p

theorem falseStartBit_due : p.DueKept (p.falseStartBit i) := by
  unfold Part.falseStartBit
  split
  · rename_i heard
    exact setFrame_due _ (busy_of_filter heard)
  · exact .refl p

/-- A line found stuck ends the frame whose window is open and is cleared, in one (R116). -/
theorem stuckLine_due (recessiveSince : Bool) : p.DueKept (p.stuckLine i recessiveSince) := by
  have reached : ∀ (q : Part) cut, q.DueKept (q.stuckReaches i cut) := fun q cut => by
    unfold Part.stuckReaches
    split
    · exact finish_due q i _
    · exact finish_due q i _
    · exact finish_due q i _
    · split
      · split
        · exact .conclude (.of_lines (setWork_lines q i _))
        · exact .refl q
      · exact .refl q
    · exact .refl q
  have told : ∀ (q : Part) cut, p.DueKept (q.setLc i Line.stick) → p.DueKept
      ((((q.setLc i Line.stick).stuckReaches i cut).setLc i Line.tellStuck).raise (.line i)) := fun q cut stuck =>
    ((stuck.trans (reached _ cut)).setLc i fun law => ⟨law.once, law.quiet, law.wire, law.stop⟩).leaves rfl
  unfold Part.stuckLine
  dsimp only
  split
  · split
    · rename_i f open_
      refine told _ _ ((Part.DueKept.refl p).line ((endFrameRecord_local p i f .stuck).setLc _) fun law => ?_)
      rw [setLc_station_same, endFrameRecord_station]
      refine .stick fun asleep => ?_
      have running := law.wire (busy_of_filter open_)
      simp [Line.recorded, Line.receive, running] at asleep
    · exact told p _ ((Part.DueKept.refl p).setLc i fun law => .stick fun _ => law)
  · exact .refl p

end Lines

/-! ### Events of the panel -/

section PanelEvents
variable (p : Part)

theorem answerPrompt_due (e : PanelEntry) (r : Result) : p.DueKept (p.answerPrompt e r) :=
  ((Part.DueKept.refl p).panel (endShowing_only p)).trans (completeStep_due _ _ r)

theorem pressPrompt_due (e : PanelEntry) (key : Key) : p.DueKept (p.pressPrompt e key) := by
  unfold Part.pressPrompt
  split
  · exact (answerPrompt_due _ e _).after (abandonRerun_lines p _ _)
  · split
    · exact .refl p
    · exact answerPrompt_due p e _
  · split
    · exact .refl p
    · split
      · exact answerPrompt_due p e _
      · exact answerPrompt_due p e _
  · split
    · exact .refl p
    · exact pressRepeat_due p e

theorem keyPressed_due (key : Key) : p.DueKept (p.keyPressed key) := by
  have taken : ∀ q : Part, q.DueKept (q.takePress key) := fun q => by
    unfold Part.takePress
    split
    · exact .refl q
    · split
      · exact .refl q
      · split
        · exact (Part.DueKept.refl q).panel (pressNotice_only q key)
        · exact pressPrompt_due q _ key
  unfold Part.keyPressed
  split
  · exact (taken _).after rfl
  · exact .refl p

theorem promptExpires_due : p.DueKept p.promptExpires := by
  unfold Part.promptExpires
  split
  · split
    · exact answerPrompt_due p _ _
    · exact .refl p
  · exact .refl p

end PanelEvents

/-! ### Events against rack time, of the supply and of the stimulus -/

section Timed
variable (p : Part) (i : StationId)

theorem waitEnds_due : p.DueKept (p.waitEnds i) := by
  unfold Part.waitEnds
  split
  · split
    · split
      · exact finish_due p i _
      · exact .refl p
    · exact .refl p
  · exact .refl p

theorem nextAttempt_due : p.DueKept (p.nextAttempt i) := by
  unfold Part.nextAttempt
  split
  · split
    · split
      · exact .conclude (.of_lines (startAttempt_lines p i _ _))
      · exact .refl p
    · exact .refl p
  · exact .refl p

theorem settleExpires_due : p.DueKept (p.settleExpires i) := by
  unfold Part.settleExpires
  split
  · split
    · split
      · split
        · exact finish_due p i _
        · exact .of_lines (setWork_lines p i _)
      · exact .refl p
    · exact .refl p
  · exact .refl p

theorem listenExpires_due : p.DueKept (p.listenExpires i) := by
  unfold Part.listenExpires
  split
  · split
    · split
      · exact finish_due p i _
      · exact .refl p
    · exact .refl p
  · exact .refl p

theorem supplyStep_due : p.DueKept (p.supplyStep i) := by
  unfold Part.supplyStep
  dsimp only
  split
  · split
    · exact (finish_due _ i _).after (setPs_lines p i _)
    · exact .of_lines (setPs_lines p i _)
  · exact .refl p

theorem monitorSample_due (mA mV : Nat) (inLimit : Bool) : p.DueKept (p.monitorSample i mA mV inLimit) := by
  unfold Part.monitorSample
  split <;> exact .of_lines (by simp)

theorem trip_due : p.DueKept (p.trip i) := by
  unfold Part.trip
  dsimp only
  split
  · exact (supplyLeave_due p i _).leaves (faultReport_lines _ i _)
  · exact .refl p

theorem rampStep_due (c : RampChannel) : p.DueKept (p.rampStep i c) := by
  unfold Part.rampStep
  dsimp only
  split
  · exact .refl p
  · rename_i r _
    have stepped : p.DueKept ((p.setSt i fun _ => ((p.station i).st.stepRamp c r).1).setWalker i
        fun w => w.countStep c) :=
      .of_lines (by simp)
    split
    · split
      · split
        · exact stepped.trans (finish_due _ i _)
        · exact stepped
      · exact stepped
    · exact .refl p

end Timed

/-! ### Events of the rack and of the host -/

section Rack
variable (p : Part)

theorem writeSweep_due : p.DueKept p.writeSweep := by
  unfold Part.writeSweep
  split
  · exact sweep_due p
  · exact .refl p

theorem periodicSweep_due : p.DueKept p.periodicSweep := by
  unfold Part.periodicSweep
  split
  · split
    · exact (sweep_due _).after rfl
    · exact .refl p
  · exact .refl p

theorem writeStnctl_due (v : Word) : p.DueKept (p.writeStnctl v) := by
  refine eachStation_due p fun i q => ?_
  dsimp only
  split
  · split
    · exact (clear_due _ i).after (halt_lines q i)
    · exact clear_due q i
  · split
    · exact .of_lines (halt_lines q i)
    · exact .refl q

theorem guardedWrite_due (i : StationId) (c : CellId) (v : Word) : p.DueKept (p.guardedWrite i c v) := by
  unfold Part.guardedWrite
  dsimp only
  split <;> exact .of_lines rfl

theorem writeMemory_due (x : Nat) (v : Word) : p.DueKept (p.writeMemory x v) := by
  unfold Part.writeMemory
  split
  · exact guardedWrite_due p _ _ v
  · exact .of_lines rfl

theorem rackTick_due (keys : RawMs 4) (fixtures : Vector FixtureRaw 4) :
    p.DueKept (p.rackTick keys fixtures) := by
  have counted : p.DueKept (p.countFixtures fixtures) :=
    eachStation_due p fun i q => .of_lines (setFx_lines q i _)
  have written : ∀ q : Part, q.DueKept
      (q.eachStation fun i q => if (q.station i).walker.state = .off then q else q.writeInputs i) := fun q => by
    refine eachStation_due q fun i q => ?_
    split <;> exact .of_lines (by simp)
  have advanced : ∀ (q : Part) now c, q.DueKept { q with rackTime := now, panel := c } := fun _ _ _ =>
    .of_lines rfl
  unfold Part.rackTick
  dsimp only
  split
  · exact counted
  · unfold Part.tick
    exact (counted.trans (written _)).trans (advanced _ _ _)

/-- A station brought up has its line still (R196). -/
theorem bringUp_due (raw : RawLevels) (i : StationId) : p.DueKept (p.bringUp raw i) :=
  (Part.DueKept.refl p).line (bringUp_local p i raw) fun _ => by
    obtain ⟨w, f, l, a, -, still, column⟩ := bringUp_station p raw i
    rw [column]
    exact .of_still still

theorem tryEnable_due (raw : RawLevels) : p.DueKept (p.tryEnable raw) := by
  have recorded : ∀ e, p.DueKept (p.writeConfigError e) := fun e => by cases e <;> exact .of_lines rfl
  have ups : ∀ (q : Part) (mask : BitVec 4),
      q.DueKept (q.eachStation fun i q => if mask.getLsbD i.val then q.bringUp raw i else q) := fun q mask => by
    refine eachStation_due q fun i q => ?_
    split
    · exact bringUp_due q raw i
    · exact .refl q
  have checked : ∀ (q : Part) high low suspect, (q.writeReference high low suspect).stations = q.stations :=
    fun _ _ _ _ => rfl
  have enabled : ∀ q : Part, q.DueKept (q.enable raw) := fun q => by
    have latched : q.DueKept { q with enabled := true, config := q.readRackConfig } := .of_lines rfl
    unfold Part.enable
    refine .panel (.leaves (latched.trans (ups _ q.readRackConfig.mask)) ?_) (enablePanel_only _ _)
    rw [checked, setConv_stations]
  unfold Part.tryEnable
  split
  · exact recorded _
  · exact (recorded none).trans (enabled _)

theorem takeDown_due (i : StationId) : p.DueKept (p.takeDown i) := by
  unfold Part.takeDown
  split
  · exact .refl p
  · dsimp only
    refine .leaves (((supplyOff_due p i).leaves (abandonStep_lines _ i .disabled)).leaves (closeRun_lines _ i)) ?_
    exact modify_lines _ i rfl

theorem disable_due : p.DueKept p.disable := by
  have dark : p.DueKept { p with enabled := false } := .of_lines rfl
  unfold Part.disable
  refine .panel (.leaves (dark.trans (eachStation_due _ fun i q => takeDown_due q i)) ?_) (disablePanel_only _)
  rw [setConv_stations]

theorem writeControl_due (v : Word) (raw : RawLevels) : p.DueKept (p.writeControl v raw) := by
  have written : p.DueKept (if writtenEnable v && !p.enabled then p.tryEnable raw
      else if !writtenEnable v && p.enabled then p.disable else p) := by
    split
    · exact tryEnable_due p raw
    · split
      · exact disable_due p
      · exact .refl p
  exact written.leaves rfl

end Rack

/-! ### Resets -/

/-- A reset of a part that runs stills every line (R117, R199). -/
theorem resetRunning_due (p : Part) (cause : ResetCause) : p.DueKept (p.resetRunning cause) := fun i _ => by
  show ((p.resetRunning cause).station i).lc.DueLaw
  rw [resetRunning_station]
  exact .of_still rfl

theorem resetPin_due (p : Part) : p.DueKept p.resetPin := by
  cases hr : p.inReset with
  | none =>
    rw [resetPin_runs hr]
    exact (resetRunning_due p .pin).leaves rfl
  | some _ =>
    rw [resetPin_held hr]
    exact .of_lines rfl

theorem powerOn_due (p : Part) (contents : List Host.Cell) : p.DueKept (p.powerOn contents) := fun i _ =>
  reset_dueLaw i

/-! ### Every command -/

theorem take_due {p : Part} {f : Part → Part} (h : p.DueKept (f p)) : p.DueKept (p.take f) := by
  unfold Part.take
  split
  · exact .refl p
  · exact h.leaves rfl

theorem rackctlWrite_due (p : Part) (v : Word) (raw : RawLevels) : p.DueKept (p.rackctlWrite v raw) := by
  unfold Part.rackctlWrite
  split
  · exact .refl p
  · split
    · exact (resetRunning_due p .soft).leaves rfl
    · exact (writeControl_due p v raw).leaves rfl

theorem writeRegister_due (p : Part) (r : Register) (v : Word) : p.DueKept (p.writeRegister r v) := by
  cases r with
  | ident | racktime | guardlog => exact take_due (f := fun q => q) (.refl p)
  | rackctl => exact rackctlWrite_due p v _
  | sweep => exact take_due (writeSweep_due p)
  | stnctl => exact take_due (f := fun q => q.writeStnctl v) (writeStnctl_due p v)
  | attn => exact take_due (f := fun q => q.writeAttn v) (.of_lines rfl)
  | attnmask => exact take_due (f := fun q => q.writeAttnMask v) (.of_lines rfl)

theorem hostWrite_due (p : Part) (k : BitVec 14) (v : Word) : p.DueKept (p.hostWrite k v) := by
  unfold Part.hostWrite
  split
  · exact writeRegister_due p _ v
  · exact take_due (writeMemory_due p _ v)

/-- Every command keeps the law. -/
theorem exec_due {c : Instr} {s t : State} (h : exec c s = .next t) : s.part.DueKept t.part := by
  have event : ∀ f : Part → Part, s.event f = .next t → s.part.DueKept (f s.part) → s.part.DueKept t.part :=
    fun f h kept => by
      cases h
      exact take_due kept
  have always : ∀ f : Part → Part, s.always f = .next t → s.part.DueKept (f s.part) →
      s.part.DueKept t.part := fun f h kept => by
    cases h
    exact kept.leaves rfl
  have shown : ∀ {q : Part}, PanelOnly s.part q → s.part.DueKept q := (Part.DueKept.refl s.part).panel
  cases c with
  | powerOnReset contents => cases h; exact powerOn_due _ contents
  | resetPinAsserted => cases h; exact resetPin_due _
  | softReset v => cases h; exact rackctlWrite_due _ v _
  | rackEnable v raw => cases h; exact rackctlWrite_due _ v raw
  | rackDisable v => cases h; exact rackctlWrite_due _ v _
  | sweepmodeWrite v => cases h; exact rackctlWrite_due _ v _
  | sweepWrite v => exact event _ h (writeSweep_due s.part)
  | periodicSweep => exact event _ h (periodicSweep_due s.part)
  | stationHalt v => exact event _ h (writeStnctl_due s.part v)
  | stationClear v => exact event _ h (writeStnctl_due s.part v)
  | attnClear v => exact event _ h (.of_lines rfl)
  | attnmaskWrite v => exact event _ h (.of_lines rfl)
  | guardlogRead =>
    cases h
    unfold Part.readGuardLog
    split <;> exact .of_lines rfl
  | registerWriteIgnored r v => cases h; exact writeRegister_due _ r v
  | hostMemoryWrite k v => cases h; exact hostWrite_due _ k v
  | hostCellStateWrite i c v => exact event _ h (guardedWrite_due s.part i c v)
  | rackTimeTick keys fixtures =>
    exact always (fun p => p.rackTick keys fixtures) h (rackTick_due s.part keys fixtures)
  | waitExpiry i => exact event _ h (waitEnds_due s.part i)
  | fixtureDebounceChange i k => exact always _ h (debounceChange_due s.part i k)
  | fixtureCodeChange i d => exact always _ h (codeChange_due s.part i d)
  | twoHandTimeout i => exact event _ h (handTimeout_due s.part i)
  | travelTimeout i => exact event _ h (travelExpiry_due s.part i)
  | supplyRampStep i => exact event _ h (supplyStep_due s.part i)
  | supplyMonitorSample i mA mV b => exact event _ h (monitorSample_due s.part i _ _ b)
  | supplyTrip i => exact event _ h (trip_due s.part i)
  | stimulusRampStep i k => exact event _ h (rampStep_due s.part i k)
  | pgPeriodBoundary i g => exact event _ h (.of_lines (setSt_lines s.part i _))
  | scheduleEntryDue i e => exact event _ h (scheduleDue_due s.part i e)
  | wireFree i => exact event _ h (wireFree_due s.part i)
  | lineSyncComplete i => exact event _ h (syncComplete_due s.part i)
  | bitError i b => exact event _ h (bitFault_due s.part i b)
  | frameEnd i b => exact event _ h (sendEnds_due s.part i b)
  | responseCharacterReceived i x => exact event _ h (hearCharacter_due s.part i x)
  | responseAllowanceExpiry i => exact event _ h (allowanceEnds_due s.part i)
  | responseWindowClose i b => exact event _ h (closeWindow_due s.part i b)
  | lineStuck i b => exact event _ h (stuckLine_due s.part i b)
  | sampleEnd v => exact event _ h (sampleEnds_due s.part v)
  | inputFilteredEdge i k tick => exact event _ h (inputEdge_due s.part i k tick)
  | inputExcursionRejected i k => exact event _ h (inputReject_due s.part i k)
  | edgeWindowClose i => exact event _ h (windowEnds_due s.part i)
  | meterGateEnd i n => exact event _ h (.of_lines (setAq_lines s.part i _))
  | meterDeadline i n => exact event _ h (meterExpires_due s.part i n)
  | lampIdentityRead i b => exact event _ h (identityRead_due s.part i b)
  | lampRowUpdate i v => exact event _ h (rowUpdate_due s.part i v)
  | attemptStart i => exact event _ h (nextAttempt_due s.part i)
  | settleTimeout i => exact event _ h (settleExpires_due s.part i)
  | listenTimeout i => exact event _ h (listenExpires_due s.part i)
  | keyPress k => exact event _ h (keyPressed_due s.part k)
  | promptTimeout => exact event _ h (promptExpires_due s.part)
  | panelRender => exact event _ h (shown (render_only s.part))
  | noticeBeep => exact event _ h (shown (noticeBeeps_only s.part))
  | buzzerEnd => exact event _ h (shown (buzzerEnds_only s.part))
  | resetEnd =>
    cases h
    unfold Part.endReset
    split <;> exact .of_lines rfl
  | keyRelease k => exact event _ h (shown (keyReleased_only s.part k))
  | responseWindowOpen i b => exact event _ h (openWindow_due s.part i b)
  | falseStart i => exact event _ h (falseStartBit_due s.part i)

theorem step_due {s t : State} (h : step s = .next t) : s.part.DueKept t.part := by
  unfold step at h
  split at h
  · cases h
    exact .refl _
  · rename_i c rest _
    exact exec_due (s := { s with pending := rest }) h

end Sys2Proof.Machine
end

section
/-! The statement of the due list (R112, R115, R118 to R120, R124 to R127). -/

namespace Sys2Proof.Machine

/-- Settles O45: every event keeps the law of the lines; a SEND is its checks and then the load, the clearing or
its entry's place in the list; and what takes the wire is the head of the list as the event left it. -/
theorem dueEntriesTakeTheWire : Obligations.DueEntriesTakeTheWire := by
  refine ⟨fun s t law h i => step_due h i (law i), sendParams_iff, fun p i t kind => ⟨fun bad => ?_, fun a given dead => ?_⟩,
    fun p i t kind given live => ⟨fun e bad first => ?_, fun good free => ?_, fun good busy => ?_⟩,
    fun p i table near => ?_, fun p i t kind given live => ⟨fun quiet => ?_, fun awake free => ?_, fun running busy => ?_⟩,
    fun p i t e kind given live => ⟨fun unloaded => ?_, fun table loaded => ⟨fun bad => ?_, fun good taken =>
      ⟨fun due => ?_, fun fresh => ?_⟩, fun good running free noGap nothing => ?_⟩⟩,
    fun s i e table runs ⟨loaded, enabled, reached, taken⟩ => ⟨fun fresh => ?_, fun due => ?_⟩,
    fun s i e table runs ⟨loaded, enabled, reached, running, free, noGap, nothing⟩ => ?_,
    fun s i d rest table runs ⟨gap, running, free, due, loaded⟩ => ?_, fun s i runs gap nothing => ?_,
    fun s i runs syncing nothing => ?_, fun s i d rest table runs ⟨syncing, free, due, loaded⟩ => ?_,
    fun now e key due sorted fresh => ⟨insertDue_pairwise sorted fresh, insertDue_perm now e key due⟩⟩
  · rw [startStep_send kind, startSend_bad bad]
  · rw [startStep_send kind, startSend_dead given dead]
  · rw [startStep_send kind, startSend_start live given]
    exact sendStart_invalid (firstInvalid_some bad first)
  · rw [startStep_send kind, startSend_start live given, sendStart_free (firstInvalid_none good) free, startResult_eq,
      loaded_eq]
    rfl
  · rw [startStep_send kind, startSend_start live given, sendStart_busy (firstInvalid_none good) busy, loaded_eq]
    rfl
  · obtain ⟨mem, line⟩ := loadSchedule_eq p i table near
    exact ⟨line, (loadSchedule_linesOnly p i table).walker i, mem, (loadSchedule_local p i table).others⟩
  · rw [startStep_send kind, startSend_stop live given, sendStop_quiet quiet]
  · have loud : (p.station i).lc.state ≠ .quiet := fun quiet => by simp [quiet] at awake
    rw [startStep_send kind, startSend_stop live given, sendStop_free loud free]
  · have loud : (p.station i).lc.state ≠ .quiet := fun quiet => by simp [quiet] at running
    rw [startStep_send kind, startSend_stop live given, sendStop_busy loud busy]
  · rw [startStep_send kind, startSend_once live given, sendOnce_unloaded unloaded]
  · rw [startStep_send kind, startSend_once live given, sendOnce_invalid loaded bad]
  · rw [startStep_send kind, startSend_once live given, sendOnce_waits loaded good taken, if_pos due]
  · rw [startStep_send kind, startSend_once live given, sendOnce_waits loaded good taken, if_neg (by simp [fresh])]
  · rw [startStep_send kind, startSend_once live given, sendOnce_starts loaded good running free noGap nothing]
  · exact answers_event (fun p => p.scheduleDue i e) rfl runs (scheduleDue_joins loaded enabled reached fresh taken)
  · exact answers_event (fun p => p.scheduleDue i e) rfl runs (scheduleDue_overruns loaded enabled reached due taken)
  · exact answers_event (fun p => p.scheduleDue i e) rfl runs
      (scheduleDue_starts loaded enabled reached running free noGap nothing)
  · exact answers_event (fun p => p.wireFree i) rfl runs (wireFree_starts free due loaded gap running)
  · exact answers_event (fun p => p.wireFree i) rfl runs (wireFree_empty gap nothing)
  · exact answers_event (fun p => p.syncComplete i) rfl runs (syncComplete_empty syncing nothing)
  · exact answers_event (fun p => p.syncComplete i) rfl runs (syncComplete_starts free due loaded syncing)

end Sys2Proof.Machine
end
